-- ==== Sys2Proof/Word.lean ====
section
/-! DEFINITION. The widths of the spec's values (`00_scope.md` R9): u4, u8, u12, u16. -/

namespace Sys2Proof

/-- A u4: a register number, a key value, a row count. -/
abbrev Nibble := BitVec 4

/-- A u8: a memory cell, a general register, a timer. -/
abbrev Byte := BitVec 8

/-- A u12: the immediate address nnn. -/
abbrev Addr := BitVec 12

/-- A u16: an instruction word, I, PC, a return address. -/
abbrev Word := BitVec 16

/-- The number of a general register, 0 to 15 (R21). -/
abbrev Reg := Nibble

/-- VF, the register that doubles as the flag (R22). -/
abbrev vf : Reg := 0xF#4

end Sys2Proof
end

