-- ==== Sys2Proof/Syntax.lean ====
section
/-! DEFINITION. The instruction set: one constructor for each row of spec/opcode_table.json (`30_encoding.md` R95). -/

namespace Sys2Proof

/-- The 34 instructions, in the order of the opcode table. `x` and `y` are register numbers (R94). -/
inductive Instr where
  /-- 00E0 `CLS` (R261). -/
  | cls
  /-- 00EE `RET` (R130). -/
  | ret
  /-- 1nnn `JP nnn` (R131). -/
  | jp (nnn : Addr)
  /-- 2nnn `CALL nnn` (R133). -/
  | call (nnn : Addr)
  /-- 3xnn `SE Vx, nn` (R134). -/
  | seImm (x : Reg) (nn : Byte)
  /-- 4xnn `SNE Vx, nn` (R135). -/
  | sneImm (x : Reg) (nn : Byte)
  /-- 5xy0 `SE Vx, Vy` (R136). -/
  | seReg (x y : Reg)
  /-- 6xnn `LD Vx, nn` (R172). -/
  | ldImm (x : Reg) (nn : Byte)
  /-- 7xnn `ADD Vx, nn` (R173). -/
  | addImm (x : Reg) (nn : Byte)
  /-- 8xy0 `LD Vx, Vy` (R174). -/
  | ldReg (x y : Reg)
  /-- 8xy1 `OR Vx, Vy` (R175). -/
  | orReg (x y : Reg)
  /-- 8xy2 `AND Vx, Vy` (R176). -/
  | andReg (x y : Reg)
  /-- 8xy3 `XOR Vx, Vy` (R177). -/
  | xorReg (x y : Reg)
  /-- 8xy4 `ADD Vx, Vy` (R178). -/
  | addReg (x y : Reg)
  /-- 8xy5 `SUB Vx, Vy` (R179). -/
  | subReg (x y : Reg)
  /-- 8xy6 `SHR Vx`; y is encoded and ignored (R180). -/
  | shr (x y : Reg)
  /-- 8xy7 `SUBN Vx, Vy` (R181). -/
  | subnReg (x y : Reg)
  /-- 8xyE `SHL Vx`; y is encoded and ignored (R182). -/
  | shl (x y : Reg)
  /-- 9xy0 `SNE Vx, Vy` (R137). -/
  | sneReg (x y : Reg)
  /-- Annn `LD I, nnn` (R210). -/
  | ldI (nnn : Addr)
  /-- Bnnn `JP V0, nnn` (R132). -/
  | jpV0 (nnn : Addr)
  /-- Cxnn `RND Vx, nn` (R183). -/
  | rnd (x : Reg) (nn : Byte)
  /-- Dxyn `DRW Vx, Vy, n` (R262). -/
  | drw (x y : Reg) (n : Nibble)
  /-- Ex9E `SKP Vx` (R138). -/
  | skp (x : Reg)
  /-- ExA1 `SKNP Vx` (R139). -/
  | sknp (x : Reg)
  /-- Fx07 `LD Vx, DT` (R240). -/
  | ldVxDt (x : Reg)
  /-- Fx0A `LD Vx, K` (R243). -/
  | ldVxK (x : Reg)
  /-- Fx15 `LD DT, Vx` (R241). -/
  | ldDtVx (x : Reg)
  /-- Fx18 `LD ST, Vx` (R242). -/
  | ldStVx (x : Reg)
  /-- Fx1E `ADD I, Vx` (R211). -/
  | addI (x : Reg)
  /-- Fx29 `LD F, Vx` (R212). -/
  | ldF (x : Reg)
  /-- Fx33 `LD B, Vx` (R213). -/
  | ldB (x : Reg)
  /-- Fx55 `LD [I], Vx` (R214). -/
  | storeRegs (x : Reg)
  /-- Fx65 `LD Vx, [I]` (R215). -/
  | loadRegs (x : Reg)
  deriving DecidableEq, Repr

end Sys2Proof
end

