-- ==== Sys2Proof/WellFormed.lean ====
section
/-! DEFINITION. The one restriction the spec puts on an instruction's operands: the operand invariant of 8xy0, 8xy1,
8xy2 and 8xy3 (`10_state.md` R24, `41_alu.md` R171). Field widths are in the types. -/

namespace Sys2Proof

/-- Neither operand is VF (R24). -/
def avoidsFlag (x y : Reg) : Bool := x != vf && y != vf

/-- The operand invariant holds of the instruction. An ill-formed instruction still decodes (R97); executing it raises
`OperandInvariant` (log entry 12). -/
def Instr.wellFormed : Instr → Bool
  | .ldReg x y => avoidsFlag x y
  | .orReg x y => avoidsFlag x y
  | .andReg x y => avoidsFlag x y
  | .xorReg x y => avoidsFlag x y
  | .cls | .ret | .jp _ | .call _ | .seImm _ _ | .sneImm _ _ | .seReg _ _ | .ldImm _ _ | .addImm _ _
  | .addReg _ _ | .subReg _ _ | .shr _ _ | .subnReg _ _ | .shl _ _ | .sneReg _ _ | .ldI _ | .jpV0 _
  | .rnd _ _ | .drw _ _ _ | .skp _ | .sknp _ | .ldVxDt _ | .ldVxK _ | .ldDtVx _ | .ldStVx _ | .addI _
  | .ldF _ | .ldB _ | .storeRegs _ | .loadRegs _ => true

end Sys2Proof
end

