-- ==== Sys2Proof/Decode.lean ====
section
/-! DEFINITION. The decoder of `30_encoding.md` R95, total on every word and on every byte string, and the encoder
written from the same table. -/

namespace Sys2Proof

/-- The fields of an instruction word (R8, R91). -/
def classOf (op : Word) : Nibble := op.extractLsb' 12 4
def xOf (op : Word) : Reg := op.extractLsb' 8 4
def yOf (op : Word) : Reg := op.extractLsb' 4 4
def nOf (op : Word) : Nibble := op.extractLsb' 0 4
def nnOf (op : Word) : Byte := op.extractLsb' 0 8
def nnnOf (op : Word) : Addr := op.extractLsb' 0 12

/-- Why bytes are not an instruction. -/
inductive DecodeReject where
  /-- The word is outside the 34 patterns: `Unsupported` (R95, R96). -/
  | unsupported (op : Word)
  /-- Fewer than two bytes: no whole word (R90). -/
  | truncated
  deriving DecidableEq, Repr

/-- Class 0 matches the two exact words only (R95, D8). -/
def decodeClass0 (op : Word) : Except DecodeReject Instr :=
  if op = 0x00E0#16 then .ok .cls
  else if op = 0x00EE#16 then .ok .ret
  else .error (.unsupported op)

/-- Class 8 dispatches on the low nibble (R95). -/
def decodeClass8 (op : Word) : Except DecodeReject Instr :=
  match (nOf op).toNat with
  | 0x0 => .ok (.ldReg (xOf op) (yOf op))
  | 0x1 => .ok (.orReg (xOf op) (yOf op))
  | 0x2 => .ok (.andReg (xOf op) (yOf op))
  | 0x3 => .ok (.xorReg (xOf op) (yOf op))
  | 0x4 => .ok (.addReg (xOf op) (yOf op))
  | 0x5 => .ok (.subReg (xOf op) (yOf op))
  | 0x6 => .ok (.shr (xOf op) (yOf op))
  | 0x7 => .ok (.subnReg (xOf op) (yOf op))
  | 0xE => .ok (.shl (xOf op) (yOf op))
  | _ => .error (.unsupported op)

/-- Class E dispatches on the low byte (R95). -/
def decodeClassE (op : Word) : Except DecodeReject Instr :=
  match (nnOf op).toNat with
  | 0x9E => .ok (.skp (xOf op))
  | 0xA1 => .ok (.sknp (xOf op))
  | _ => .error (.unsupported op)

/-- Class F dispatches on the low byte (R95). -/
def decodeClassF (op : Word) : Except DecodeReject Instr :=
  match (nnOf op).toNat with
  | 0x07 => .ok (.ldVxDt (xOf op))
  | 0x0A => .ok (.ldVxK (xOf op))
  | 0x15 => .ok (.ldDtVx (xOf op))
  | 0x18 => .ok (.ldStVx (xOf op))
  | 0x1E => .ok (.addI (xOf op))
  | 0x29 => .ok (.ldF (xOf op))
  | 0x33 => .ok (.ldB (xOf op))
  | 0x55 => .ok (.storeRegs (xOf op))
  | 0x65 => .ok (.loadRegs (xOf op))
  | _ => .error (.unsupported op)

/-- The complete decoder (R95): "Dispatch is by the top nibble, then by sub-fields". -/
def decodeWord (op : Word) : Except DecodeReject Instr :=
  match (classOf op).toNat with
  | 0x0 => decodeClass0 op
  | 0x1 => .ok (.jp (nnnOf op))
  | 0x2 => .ok (.call (nnnOf op))
  | 0x3 => .ok (.seImm (xOf op) (nnOf op))
  | 0x4 => .ok (.sneImm (xOf op) (nnOf op))
  | 0x5 => if nOf op = 0#4 then .ok (.seReg (xOf op) (yOf op)) else .error (.unsupported op)
  | 0x6 => .ok (.ldImm (xOf op) (nnOf op))
  | 0x7 => .ok (.addImm (xOf op) (nnOf op))
  | 0x8 => decodeClass8 op
  | 0x9 => if nOf op = 0#4 then .ok (.sneReg (xOf op) (yOf op)) else .error (.unsupported op)
  | 0xA => .ok (.ldI (nnnOf op))
  | 0xB => .ok (.jpV0 (nnnOf op))
  | 0xC => .ok (.rnd (xOf op) (nnOf op))
  | 0xD => .ok (.drw (xOf op) (yOf op) (nOf op))
  | 0xE => decodeClassE op
  | 0xF => decodeClassF op
  | _ => .error (.unsupported op)

/-- The instruction word of two consecutive cells, the lower address first: big-endian (`20_memory.md` R61). -/
def wordOfBytes (hi lo : Byte) : Word := hi ++ lo

/-- The high byte, stored at the lower address (R61). -/
def highByte (op : Word) : Byte := op.extractLsb' 8 8

/-- The low byte, stored at the higher address (R61). -/
def lowByte (op : Word) : Byte := op.extractLsb' 0 8

/-- One instruction off the front of a byte string, with the rest: every instruction is two bytes (R90). -/
def decodeBytes : List Byte → Except DecodeReject (Instr × List Byte)
  | hi :: lo :: rest =>
    match decodeWord (wordOfBytes hi lo) with
    | .ok i => .ok (i, rest)
    | .error e => .error e
  | _ => .error .truncated

/-- The formats of R92 that carry operands. -/
def formatNNN (c : Nibble) (nnn : Addr) : Word := c ++ nnn
def formatXNN (c : Nibble) (x : Reg) (nn : Byte) : Word := c ++ x ++ nn
def formatXYN (c : Nibble) (x y : Reg) (n : Nibble) : Word := c ++ x ++ y ++ n

/-- The word of an instruction (R92, R95). -/
def encode : Instr → Word
  | .cls => 0x00E0#16
  | .ret => 0x00EE#16
  | .jp nnn => formatNNN 0x1#4 nnn
  | .call nnn => formatNNN 0x2#4 nnn
  | .seImm x nn => formatXNN 0x3#4 x nn
  | .sneImm x nn => formatXNN 0x4#4 x nn
  | .seReg x y => formatXYN 0x5#4 x y 0x0#4
  | .ldImm x nn => formatXNN 0x6#4 x nn
  | .addImm x nn => formatXNN 0x7#4 x nn
  | .ldReg x y => formatXYN 0x8#4 x y 0x0#4
  | .orReg x y => formatXYN 0x8#4 x y 0x1#4
  | .andReg x y => formatXYN 0x8#4 x y 0x2#4
  | .xorReg x y => formatXYN 0x8#4 x y 0x3#4
  | .addReg x y => formatXYN 0x8#4 x y 0x4#4
  | .subReg x y => formatXYN 0x8#4 x y 0x5#4
  | .shr x y => formatXYN 0x8#4 x y 0x6#4
  | .subnReg x y => formatXYN 0x8#4 x y 0x7#4
  | .shl x y => formatXYN 0x8#4 x y 0xE#4
  | .sneReg x y => formatXYN 0x9#4 x y 0x0#4
  | .ldI nnn => formatNNN 0xA#4 nnn
  | .jpV0 nnn => formatNNN 0xB#4 nnn
  | .rnd x nn => formatXNN 0xC#4 x nn
  | .drw x y n => formatXYN 0xD#4 x y n
  | .skp x => formatXNN 0xE#4 x 0x9E#8
  | .sknp x => formatXNN 0xE#4 x 0xA1#8
  | .ldVxDt x => formatXNN 0xF#4 x 0x07#8
  | .ldVxK x => formatXNN 0xF#4 x 0x0A#8
  | .ldDtVx x => formatXNN 0xF#4 x 0x15#8
  | .ldStVx x => formatXNN 0xF#4 x 0x18#8
  | .addI x => formatXNN 0xF#4 x 0x1E#8
  | .ldF x => formatXNN 0xF#4 x 0x29#8
  | .ldB x => formatXNN 0xF#4 x 0x33#8
  | .storeRegs x => formatXNN 0xF#4 x 0x55#8
  | .loadRegs x => formatXNN 0xF#4 x 0x65#8

/-- The word an opcode-table row's bits stand for: bit 0 is the word's least significant bit; bits at nbits and above
are 0, and a word has 16 bits (log entry 11). -/
def tableWord (nbits w : Nat) : Word := BitVec.ofNat 16 (w % 2 ^ nbits)

/-- The instruction the decoder reads from a table row's bits, laid out in memory order. -/
def decodeTableWord (nbits w : Nat) : Option Instr :=
  match decodeBytes [highByte (tableWord nbits w), lowByte (tableWord nbits w)] with
  | .ok (i, _) => some i
  | .error _ => none

end Sys2Proof
end

