-- ==== Sys2Proof/Config.lean ====
section
/-! DEFINITION. What is fixed for the machine: the constants of `00_scope.md` R5, the open parameters of R6, the
input ports of `60_exceptions.md` R300, and the free value of an input draw. -/

namespace Sys2Proof

/-- MEM_SIZE (R5). -/
abbrev memSize : Nat := 4096

/-- PROGRAM_BASE, also the reset PC (R5). -/
abbrev programBase : Nat := 0x200

/-- MAX_PROGRAM (R5): 3584 bytes. -/
abbrev maxProgram : Nat := memSize - programBase

/-- DISPLAY_W and DISPLAY_H (R5). -/
abbrev displayW : Nat := 64
abbrev displayH : Nat := 32

/-- STACK_DEPTH (R5). -/
abbrev stackDepth : Nat := 16

/-- The framebuffer: a "flat ordered sequence, row-major" of 64 × 32 one-bit pixels, FB[p] the bit numbered p (R42). -/
abbrev Framebuffer := BitVec 2048

/-- The parameters the source leaves open (R6). They are fixed for a machine: no step changes them. -/
structure Params where
  /-- GLYPH_ROM: the 80 bytes that `reset` writes at 0x000 to 0x04F (D11). -/
  glyphRom : Vector Byte 80
  /-- DRAW_COORDS_AFTER_VF_CLEAR: whether Dxyn reads Vx and Vy after VF is zeroed (D26). -/
  drawCoordsAfterVfClear : Bool
  deriving DecidableEq, Repr

/-- The values on the four input ports in one cycle (R300). -/
structure Input where
  stop : Bool
  /-- `key_in`: none, or some(k) with k in 0 to 15. -/
  key : Option Nibble
  /-- `tick_ms`: natural milliseconds since the previous cycle (D15). -/
  tickMs : Nat
  rand : Byte
  deriving DecidableEq, Repr, Inhabited

/-- FREE VALUE (log entry 1): the port values of the n-th cycle where the input queue names none. "A model treats
every input as a free draw for each cycle" (R300): no body, so that nothing can be proved of it beyond its type. -/
opaque Config.freeInput : Nat → Input

end Sys2Proof
end

