-- ==== Sys2Proof/Machine/Memory.lean ====
section
/-! DEFINITION. The one memory (`10_state.md` R41, `20_memory.md`): 4096 byte cells, held as a canonical list of the
cells that differ from their reset contents; and the default of the parameter GLYPH_ROM. -/

namespace Sys2Proof.Machine

/-- The cells that differ from their reset contents, addresses rising. -/
abbrev Memory := List Host.Cell

/-- The conventional hexadecimal font, one digit a line: the default of GLYPH_ROM (R360's table, D11).
PRESUMED (log entry 3): "from general knowledge, not in source". -/
def defaultGlyphs : List Byte :=
  [0xF0, 0x90, 0x90, 0x90, 0xF0] ++ [0x20, 0x60, 0x20, 0x20, 0x70] ++
  [0xF0, 0x10, 0xF0, 0x80, 0xF0] ++ [0xF0, 0x10, 0xF0, 0x10, 0xF0] ++
  [0x90, 0x90, 0xF0, 0x10, 0x10] ++ [0xF0, 0x80, 0xF0, 0x10, 0xF0] ++
  [0xF0, 0x80, 0xF0, 0x90, 0xF0] ++ [0xF0, 0x10, 0x20, 0x40, 0x40] ++
  [0xF0, 0x90, 0xF0, 0x90, 0xF0] ++ [0xF0, 0x90, 0xF0, 0x10, 0xF0] ++
  [0xF0, 0x90, 0xF0, 0x90, 0x90] ++ [0xE0, 0x90, 0xE0, 0x90, 0xE0] ++
  [0xF0, 0x80, 0x80, 0x80, 0xF0] ++ [0xE0, 0x90, 0x90, 0x90, 0xE0] ++
  [0xF0, 0x80, 0xF0, 0x80, 0xF0] ++ [0xF0, 0x80, 0xF0, 0x80, 0x80]

/-- The parameters' stated defaults (R6). PRESUMED for the font (log entry 3); DESIGN CHOICE for the Bool, the default
the spec names (log entry 4). -/
def defaultParams : Params where
  glyphRom := ⟨defaultGlyphs.toArray, rfl⟩
  drawCoordsAfterVfClear := false

/-- What an unlisted address reads as: its contents after `reset` (R360), the glyphs at 0x000 to 0x04F and 0 above. -/
def unlisted (rom : Vector Byte 80) (a : Nat) : Byte :=
  if h : a < 80 then rom[a] else 0

/-- The byte listed at an address, if one is. -/
def Memory.lookup : Memory → Nat → Option Byte
  | [], _ => none
  | (k, b) :: m, a => if k = a then some b else Memory.lookup m a

/-- `mem[a]`. -/
def Memory.read (rom : Vector Byte 80) (m : Memory) (a : Nat) : Byte :=
  (Memory.lookup m a).getD (unlisted rom a)

/-- List a byte at an address, in its place. -/
def Memory.insert : Memory → Nat → Byte → Memory
  | [], a, b => [(a, b)]
  | (k, c) :: m, a, b =>
    if a < k then (a, b) :: (k, c) :: m
    else if a = k then (a, b) :: m
    else (k, c) :: Memory.insert m a b

/-- Take an address off the list. -/
def Memory.erase : Memory → Nat → Memory
  | [], _ => []
  | (k, c) :: m, a => if k = a then Memory.erase m a else (k, c) :: Memory.erase m a

/-- `mem[a] <- b`, keeping the canonical form: a cell back at its reset contents is not listed. -/
def Memory.write (rom : Vector Byte 80) (m : Memory) (a : Nat) (b : Byte) : Memory :=
  if b = unlisted rom a then Memory.erase m a else Memory.insert m a b

/-- Consecutive bytes written from an address up (`load`, R362). -/
def Memory.writeAll (rom : Vector Byte 80) : Memory → Nat → List Byte → Memory
  | m, _, [] => m
  | m, a, b :: bs => Memory.writeAll rom (Memory.write rom m a b) (a + 1) bs

/-- The canonical form: addresses strictly rising and inside the array, no entry equal to the reset contents. -/
abbrev Memory.wf (rom : Vector Byte 80) (m : Memory) : Prop :=
  m.Pairwise (fun c d => c.1 < d.1) ∧ ∀ c ∈ m, c.1 < memSize ∧ c.2 ≠ unlisted rom c.1

end Sys2Proof.Machine
end

