-- ==== Sys2Proof/Machine/State.lean ====
section
/-! DEFINITION. The state of the core (`10_state.md` R20), as plain data, with its ports and parameters; the reasons a
step can stop; and the state right after reset (`70_reset_and_hazards.md` R360). -/

namespace Sys2Proof.Machine

/-- The causes of a fatal fault (R310). -/
inductive FaultCause where
  /-- Code 1, R311. -/
  | unsupportedOpcode
  /-- Code 2, R312. -/
  | stackOverflow
  /-- Code 3, R313. -/
  | stackUnderflow
  /-- Code 4, R314. -/
  | programTooLarge
  /-- Code 5, R315. -/
  | operandInvariant
  /-- Code 6, R316. -/
  | fetchOutOfBounds
  /-- Code 7, R317. -/
  | dataOutOfBounds
  /-- Code 8, R318. -/
  | indexOverflow
  deriving DecidableEq, Repr

/-- The record of a fatal fault (R310): `none` where the table says none. -/
structure FaultRecord where
  cause : FaultCause
  pc : Option Word
  opcode : Option Word
  info : Option Nat
  deriving DecidableEq, Repr

/-- The Cycle Driver's mode (R38). -/
inductive Mode where
  | fetching
  /-- A key is awaited for V[t]. -/
  | awaitingKey (t : Reg)
  deriving DecidableEq, Repr

/-- The run status (R40). -/
inductive Status where
  | running
  | stopped
  | faulted (record : FaultRecord)
  deriving DecidableEq, Repr

/-- The events on the three output ports in one cycle (R301): at most one on each. -/
structure Output where
  /-- `refresh`: a copy of FB at the moment of the push (D30). -/
  refresh : Option Framebuffer := none
  beep : Bool := false
  fault : Option FaultRecord := none
  deriving DecidableEq, Repr

/-- The state. The fields from `mem` to `status` are R20's tuple; the last four are the model's own (the parameters of
R6, and the ports of R300 and R301). -/
structure State where
  /-- The one memory (R41). -/
  mem : Memory
  /-- V0 to VF (R21). -/
  v : Vector Byte 16
  /-- The index register I (R33). -/
  i : Word
  /-- The program counter (R26). -/
  pc : Word
  /-- The stack pointer, 0 to 16 inclusive (R31). -/
  sp : Fin 17
  /-- The return stack (R32). -/
  stack : Vector Word 16
  /-- The delay timer (R34). -/
  dt : Byte
  /-- The sound timer (R35). -/
  st : Byte
  /-- The framebuffer (R42). -/
  fb : Framebuffer
  /-- The display-dirty flag (R37). -/
  dirty : Bool
  /-- Fetching or AwaitingKey (R38). -/
  mode : Mode
  /-- The time accumulator, in milliseconds (R39). -/
  acc : Nat
  /-- Running, Stopped or Faulted (R40). -/
  status : Status
  /-- The parameters (R6), fixed for the machine. -/
  params : Params
  /-- The port values of the coming cycles, the next cycle first (log entry 1). -/
  inputs : List Input
  /-- The input draws taken so far, to which a free input is applied (log entry 1). -/
  cycles : Nat
  /-- The events of the last cycle (log entry 2). -/
  out : Output
  deriving DecidableEq, Repr

/-- Why a step gives no next state. Both say that the core has no further cycle (R302): a stuck state, which only
`reset` leaves (R40, R308, R321). Raised by `step` alone, and safe: nothing can be proved of a cycle that is not. -/
inductive Fault where
  /-- The core is `Stopped` (R308). Raised by `step`; safe. -/
  | coreStopped
  /-- The core is `Faulted` (R319). Raised by `step`; safe. -/
  | coreFaulted (record : FaultRecord)
  deriving DecidableEq, Repr

/-- Why an instruction is refused. -/
inductive Refusal where
  /-- The instruction has no meaning in the model. Raised by an arm of `exec` only (no arm does); safe. -/
  | notModelled (mnemonic : String)
  deriving DecidableEq, Repr

/-- What a meaning answers. -/
abbrev Result := Host.Outcome State Fault Refusal

/-- A fault that an operation raises, before its record is made (R10's `raise F(info)`). -/
structure Raise where
  cause : FaultCause
  info : Option Nat := none
  deriving DecidableEq, Repr

/-- The reset state of a core with the given parameters (R360). The fields `inputs`, `cycles` and `out` are the
model's own (log entries 1 and 2). -/
def State.resetWith (p : Params) : State where
  mem := []
  v := Vector.replicate 16 0
  i := 0
  pc := 0x200#16
  sp := 0
  stack := Vector.replicate 16 0
  dt := 0
  st := 0
  fb := 0
  dirty := true
  mode := .fetching
  acc := 0
  status := .running
  params := p
  inputs := []
  cycles := 0
  out := {}

/-- The machine right after reset, with the parameters at their stated defaults (R6, R360; log entries 3 and 4). -/
def State.reset : State := State.resetWith defaultParams

end Sys2Proof.Machine
end

