-- ==== Sys2Proof/Machine/Ops.lean ====
section
/-! DEFINITION. The named operations over registers, memory, stack, framebuffer and ports, and the one way a fault is
taken (`60_exceptions.md` R319). -/

namespace Sys2Proof.Machine

/-- This cycle's port values (R300): the head of the queue, or a free value where the queue names none. -/
def State.input (s : State) : Input :=
  match s.inputs with
  | inp :: _ => inp
  | [] => Config.freeInput s.cycles

/-- The draw of this cycle is used up. -/
def State.nextInput (s : State) : State :=
  { s with inputs := s.inputs.tail, cycles := s.cycles + 1 }

/-- `V[x]` (R10, R21). -/
def State.reg (s : State) (x : Reg) : Byte := s.v[x.toNat]

/-- `V[x] <- b` (R10, R21). -/
def State.setReg (x : Reg) (b : Byte) (s : State) : State := { s with v := s.v.set x.toNat b }

/-- `V[0], V[1], … <- bytes`, as many as there are bytes (R215). -/
def State.setRegs (bs : List Byte) (s : State) : State :=
  { s with v := Vector.ofFn fun k => (bs[k.val]?).getD s.v[k.val] }

/-- V[0] to V[x] in order (R214). -/
def State.regsUpTo (s : State) (x : Reg) : List Byte := s.v.toList.take (x.toNat + 1)

/-- `I <- w` (R33). -/
def State.setI (w : Word) (s : State) : State := { s with i := w }

/-- `PC <- w` (R26). -/
def State.setPc (w : Word) (s : State) : State := { s with pc := w }

/-- `DT <- b` (R34). -/
def State.setDt (b : Byte) (s : State) : State := { s with dt := b }

/-- `ST <- b` (R35). -/
def State.setSt (b : Byte) (s : State) : State := { s with st := b }

/-- `mode <- m` (R38). -/
def State.setMode (m : Mode) (s : State) : State := { s with mode := m }

/-- The contents of the cell at an address. -/
def State.byteAt (s : State) (a : Nat) : Byte := Memory.read s.params.glyphRom s.mem a

/-- The cell at an address is given a value. -/
def State.setByte (a : Nat) (b : Byte) (s : State) : State :=
  { s with mem := Memory.write s.params.glyphRom s.mem a b }

/-- `MemRead(addr, 1)` (R64, D2). -/
def memRead (s : State) (a : Nat) : Except Raise Byte :=
  if a < memSize then .ok (s.byteAt a) else .error ⟨.dataOutOfBounds, some a⟩

/-- `MemWrite(addr, 1, v)` (R65, D2). -/
def memWrite (a : Nat) (b : Byte) (s : State) : Except Raise State :=
  if a < memSize then .ok (s.setByte a b) else .error ⟨.dataOutOfBounds, some a⟩

/-- The cells at a, a + 1, …, one `MemRead` each in increasing address order (R66). -/
def loadBytes (s : State) : Nat → Nat → Except Raise (List Byte)
  | _, 0 => .ok []
  | a, n + 1 =>
    match memRead s a with
    | .error e => .error e
    | .ok b =>
      match loadBytes s (a + 1) n with
      | .error e => .error e
      | .ok bs => .ok (b :: bs)

/-- Bytes stored at a, a + 1, …, one `MemWrite` each in increasing address order (R66). -/
def storeBytes : Nat → List Byte → State → Except Raise State
  | _, [], s => .ok s
  | a, b :: bs, s =>
    match memWrite a b s with
    | .error e => .error e
    | .ok t => storeBytes (a + 1) bs t

/-- A return address is pushed and PC set (R133): the 17th push raises `StackOverflow`. -/
def pushCall (target : Word) (s : State) : Except Raise State :=
  if h : s.sp.val < stackDepth then
    .ok { s with stack := s.stack.set s.sp.val s.pc, sp := ⟨s.sp.val + 1, Nat.succ_lt_succ h⟩, pc := target }
  else .error ⟨.stackOverflow, none⟩

/-- The last return address is popped into PC (R130): the popped cell keeps its value. -/
def popReturn (s : State) : Except Raise State :=
  if h : 0 < s.sp.val then
    .ok { s with sp := ⟨s.sp.val - 1, by omega⟩, pc := s.stack[s.sp.val - 1]'(by omega) }
  else .error ⟨.stackUnderflow, none⟩

/-- A taken skip adds 2 to the already advanced PC (R140). -/
def skipIf (taken : Bool) (s : State) : State :=
  if taken then { s with pc := s.pc + 2 } else s

/-- Every pixel cleared and the display marked dirty (R261). -/
def clearScreen (s : State) : State :=
  { s with fb := 0, dirty := true }

/-- The numeric cause codes (R310, D19). -/
def FaultCause.code : FaultCause → Nat
  | .unsupportedOpcode => 1
  | .stackOverflow => 2
  | .stackUnderflow => 3
  | .programTooLarge => 4
  | .operandInvariant => 5
  | .fetchOutOfBounds => 6
  | .dataOutOfBounds => 7
  | .indexOverflow => 8

/-- FAULT ENTRY (R319): the status becomes `Faulted(record)` and the record goes out on the `fault` port, alone. There is
no handler and no return (R321): only `reset` leaves the status. -/
def enterFault (r : FaultRecord) (s : State) : State :=
  { s with status := .faulted r, out := { fault := some r } }

/-- The entry of a fault raised in a cycle by the instruction or fetch at address `a`, with opcode `op` (R310, R319). The
cycle's writes are discarded: `s` holds none but the PC advance, which is undone. -/
def takeFault (a : Word) (op : Option Word) (e : Raise) (s : State) : State :=
  enterFault { cause := e.cause, pc := some a, opcode := op, info := e.info } (s.setPc a)

/-- The address the running instruction was fetched from: PC is 2 past it while the instruction runs (R26, R101). -/
def State.fetchedFrom (s : State) : Word := s.pc - 2

/-- The end of an instruction that ran in `s`: its result, or the fault it raised (R310: pc is the instruction's own
address and opcode its word). -/
def commit (ins : Instr) (s : State) : Except Raise State → Result
  | .ok t => .next t
  | .error e => .next (takeFault s.fetchedFrom (some (encode ins)) e s)

end Sys2Proof.Machine
end

