-- ==== Sys2Proof/Machine/Boot.lean ====
section
/-! DEFINITION. The two boot operations of the host (`70_reset_and_hazards.md`): `reset` and `load`. -/

namespace Sys2Proof.Machine

/-- `reset`, in any status (R360). The parameters and the host's own side of the input ports stay (log entry 7). -/
def resetCore (s : State) : State :=
  { State.resetWith s.params with inputs := s.inputs, cycles := s.cycles }

/-- `load(image)` (R362): the length is checked before any byte is written. -/
def load (image : List Byte) (s : State) : State :=
  if image.length > maxProgram then
    enterFault { cause := .programTooLarge, pc := none, opcode := none, info := some image.length } s
  else { s with mem := Memory.writeAll s.params.glyphRom s.mem programBase image, out := {} }

/-- The boot order: `reset`, then one `load` (R363). -/
def boot (image : List Byte) (s : State) : State := load image (resetCore s)

end Sys2Proof.Machine
end

