-- ==== Sys2Proof/Machine/Flags.lean ====
section
/-! DEFINITION. The flag computations: each gives the pair (result, flag) from operands read before any write, and the
pair is written result first, VF last (`41_alu.md` R170, C1). -/

namespace Sys2Proof.Machine

/-- The flag bit as VF holds it: 1 for true, 0 for false (R9, R170). -/
def flagByte (b : Bool) : Byte := if b then 1 else 0

/-- What a flagging operation computes. -/
structure Flagged where
  value : Byte
  flag : Bool
  deriving DecidableEq, Repr

/-- Sum and carry (R178). -/
def addCarry (a b : Byte) : Flagged where
  value := a + b
  flag := decide (a.toNat + b.toNat > 255)

/-- `a - b` and its borrow (R179, R181): VF is the borrow itself. -/
def subBorrow (a b : Byte) : Flagged where
  value := a - b
  flag := decide (b.toNat > a.toNat)

/-- Right by one, and the bit shifted out (R180). -/
def shiftRight (a : Byte) : Flagged where
  value := a >>> 1
  flag := a.getLsbD 0

/-- Left by one, and the bit shifted out (R182). -/
def shiftLeft (a : Byte) : Flagged where
  value := a <<< 1
  flag := a.getLsbD 7

/-- The result into V[x], then the flag into VF (R170). -/
def writeFlagged (x : Reg) (r : Flagged) (s : State) : State :=
  (s.setReg x r.value).setReg vf (flagByte r.flag)

end Sys2Proof.Machine
end

