-- ==== Sys2Proof/Machine/Operands.lean ====
section
/-! DEFINITION. The operand forms: immediates and addresses as 16-bit values, the operand invariant, the key
comparison, the effective address, the decimal digits and the sprite coordinates. -/

namespace Sys2Proof.Machine

/-- `nnn` zero-extended to 16 bits (R93). -/
def addrWord (nnn : Addr) : Word := nnn.setWidth 16

/-- `nnn + V[0]`, exact (R132). -/
def jumpV0Target (nnn : Addr) (s : State) : Word := BitVec.ofNat 16 (nnn.toNat + (s.reg 0#4).toNat)

/-- The operand invariant of 8xy0 to 8xy3 (R171): raised before anything is written. -/
def guardOperands (x y : Reg) (r : State) : Except Raise State :=
  if x = vf ∨ y = vf then .error ⟨.operandInvariant, none⟩ else .ok r

/-- `key_in == some(v)`, compared as numbers (R138): a register above 15 matches no key. -/
def keyMatches (key : Option Nibble) (v : Byte) : Bool :=
  match key with
  | none => false
  | some k => k.toNat == v.toNat

/-- The effective address of the first cell a transfer reaches: I, exact (R216). -/
def dataBase (s : State) : Nat := s.i.toNat

/-- `I + V[x]`, exact; a sum past 0xFFFF raises `IndexOverflow` (R211). -/
def indexSum (x : Reg) (s : State) : Except Raise Word :=
  let sum := s.i.toNat + (s.reg x).toNat
  if sum > 0xFFFF then .error ⟨.indexOverflow, none⟩ else .ok (BitVec.ofNat 16 sum)

/-- The glyph base of a digit, not masked: `v * 5` (R212). -/
def glyphBase (v : Byte) : Word := BitVec.ofNat 16 (v.toNat * 5)

/-- Hundreds, tens and units (R213). -/
def decimalDigits (v : Byte) : List Byte :=
  [BitVec.ofNat 8 (v.toNat / 100), BitVec.ofNat 8 (v.toNat / 10 % 10), BitVec.ofNat 8 (v.toNat % 10)]

/-- The value a coordinate register is read as by Dxyn (R262): the read comes before VF is zeroed, or after it where the
parameter DRAW_COORDS_AFTER_VF_CLEAR says so (D26). -/
def drawCoord (x : Reg) (s : State) : Nat :=
  if s.params.drawCoordsAfterVfClear then ((s.setReg vf 0).reg x).toNat else (s.reg x).toNat

end Sys2Proof.Machine
end

