-- ==== Sys2Proof/Machine/Alu.lean ====
section
/-! DEFINITION. Register loads, arithmetic, logic, shifts and random (`41_alu.md`). -/

namespace Sys2Proof.Machine

/-- 6xnn `LD Vx, nn` (R172). -/
def execLdImm (x : Reg) (nn : Byte) (s : State) : Result := .next (s.setReg x nn)

/-- 7xnn `ADD Vx, nn` (R173): no flag. -/
def execAddImm (x : Reg) (nn : Byte) (s : State) : Result := .next (s.setReg x (s.reg x + nn))

/-- 8xy0 `LD Vx, Vy` (R174). -/
def execLdReg (x y : Reg) (s : State) : Result :=
  commit (.ldReg x y) s (guardOperands x y (s.setReg x (s.reg y)))

/-- 8xy1 `OR Vx, Vy` (R175). -/
def execOrReg (x y : Reg) (s : State) : Result :=
  commit (.orReg x y) s (guardOperands x y (s.setReg x (s.reg x ||| s.reg y)))

/-- 8xy2 `AND Vx, Vy` (R176). -/
def execAndReg (x y : Reg) (s : State) : Result :=
  commit (.andReg x y) s (guardOperands x y (s.setReg x (s.reg x &&& s.reg y)))

/-- 8xy3 `XOR Vx, Vy` (R177). -/
def execXorReg (x y : Reg) (s : State) : Result :=
  commit (.xorReg x y) s (guardOperands x y (s.setReg x (s.reg x ^^^ s.reg y)))

/-- 8xy4 `ADD Vx, Vy` (R178). -/
def execAddReg (x y : Reg) (s : State) : Result := .next (writeFlagged x (addCarry (s.reg x) (s.reg y)) s)

/-- 8xy5 `SUB Vx, Vy` (R179). -/
def execSubReg (x y : Reg) (s : State) : Result := .next (writeFlagged x (subBorrow (s.reg x) (s.reg y)) s)

/-- 8xy6 `SHR Vx` (R180): y is not read. -/
def execShr (x _y : Reg) (s : State) : Result := .next (writeFlagged x (shiftRight (s.reg x)) s)

/-- 8xy7 `SUBN Vx, Vy` (R181). -/
def execSubnReg (x y : Reg) (s : State) : Result := .next (writeFlagged x (subBorrow (s.reg y) (s.reg x)) s)

/-- 8xyE `SHL Vx` (R182): y is not read. -/
def execShl (x _y : Reg) (s : State) : Result := .next (writeFlagged x (shiftLeft (s.reg x)) s)

/-- Cxnn `RND Vx, nn` (R183): this cycle's `rand`, under the mask. -/
def execRnd (x : Reg) (nn : Byte) (s : State) : Result := .next (s.setReg x (s.input.rand &&& nn))

end Sys2Proof.Machine
end

