-- ==== Sys2Proof/Machine/ControlFlow.lean ====
section
/-! DEFINITION. Control transfer and skips (`40_control_flow.md`). Each meaning runs with PC already 2 past the
instruction's own address. -/

namespace Sys2Proof.Machine

/-- 00EE `RET` (R130). -/
def execRet (s : State) : Result := commit .ret s (popReturn s)

/-- 1nnn `JP nnn` (R131). -/
def execJp (nnn : Addr) (s : State) : Result := .next (s.setPc (addrWord nnn))

/-- 2nnn `CALL nnn` (R133). -/
def execCall (nnn : Addr) (s : State) : Result := commit (.call nnn) s (pushCall (addrWord nnn) s)

/-- Bnnn `JP V0, nnn` (R132). -/
def execJpV0 (nnn : Addr) (s : State) : Result := .next (s.setPc (jumpV0Target nnn s))

/-- 3xnn `SE Vx, nn` (R134). -/
def execSeImm (x : Reg) (nn : Byte) (s : State) : Result := .next (skipIf (s.reg x == nn) s)

/-- 4xnn `SNE Vx, nn` (R135). -/
def execSneImm (x : Reg) (nn : Byte) (s : State) : Result := .next (skipIf (s.reg x != nn) s)

/-- 5xy0 `SE Vx, Vy` (R136). -/
def execSeReg (x y : Reg) (s : State) : Result := .next (skipIf (s.reg x == s.reg y) s)

/-- 9xy0 `SNE Vx, Vy` (R137). -/
def execSneReg (x y : Reg) (s : State) : Result := .next (skipIf (s.reg x != s.reg y) s)

/-- Ex9E `SKP Vx` (R138). -/
def execSkp (x : Reg) (s : State) : Result := .next (skipIf (keyMatches s.input.key (s.reg x)) s)

/-- ExA1 `SKNP Vx` (R139). -/
def execSknp (x : Reg) (s : State) : Result := .next (skipIf (!keyMatches s.input.key (s.reg x)) s)

end Sys2Proof.Machine
end

