-- ==== Sys2Proof/Machine/Display.lean ====
section
/-! DEFINITION. Framebuffer clear and sprite draw (`44_display.md`). -/

namespace Sys2Proof.Machine

/-- The flat index of the pixel a coordinate pair lands at: both axes wrap (R42, R260). -/
def pixelIndex (px py : Nat) : Nat := py % displayH * displayW + px % displayW

/-- The framebuffer while a sprite is drawn, and whether a set pixel has been cleared (a collision, R264). -/
structure Canvas where
  fb : Framebuffer
  hit : Bool
  deriving DecidableEq, Repr

/-- One pixel toggled, and a collision noted if it was set (R262). -/
def toggle (px py : Nat) (c : Canvas) : Canvas where
  fb := c.fb ^^^ (1#2048 <<< pixelIndex px py)
  hit := c.hit || c.fb.getLsbD (pixelIndex px py)

/-- The pixel of a sprite byte in a column: bit 7 is column 0 (R263, D31). -/
def spriteBit (b : Byte) (col : Nat) : Bool := b.getLsbD (7 - col)

/-- One row of a sprite, columns 0 to 7 (R262). -/
def drawRow (cx py : Nat) (b : Byte) (c : Canvas) : Canvas :=
  (List.range 8).foldl (fun c col => if spriteBit b col then toggle (cx + col) py c else c) c

/-- The rows of a sprite, from the one at `py` down (R262). -/
def drawRows (cx : Nat) : Nat → List Byte → Canvas → Canvas
  | _, [], c => c
  | py, b :: bs, c => drawRows cx (py + 1) bs (drawRow cx py b c)

/-- A sprite drawn at (cx, cy): VF is 0, or 1 if a pixel collided, and the display is dirty (R262, D10). -/
def drawSprite (cx cy : Nat) (bs : List Byte) (s : State) : State :=
  let c := drawRows cx cy bs { fb := s.fb, hit := false }
  { s.setReg vf (flagByte c.hit) with fb := c.fb, dirty := true }

/-- 00E0 `CLS` (R261). -/
def execCls (s : State) : Result := .next (clearScreen s)

/-- Dxyn `DRW Vx, Vy, n` (R262). The sprite bytes are read before a pixel changes: drawing writes no memory, and a read
out of bounds discards the whole draw (R319; log entry 10). -/
def execDrw (x y : Reg) (n : Nibble) (s : State) : Result :=
  commit (.drw x y n) s
    ((loadBytes s (dataBase s) n.toNat).map fun bs => drawSprite (drawCoord x s) (drawCoord y s) bs s)

end Sys2Proof.Machine
end

