-- ==== Sys2Proof/Machine/IndexMemory.lean ====
section
/-! DEFINITION. The index register and the memory transfers (`42_index_memory.md`). -/

namespace Sys2Proof.Machine

/-- Annn `LD I, nnn` (R210). -/
def execLdI (nnn : Addr) (s : State) : Result := .next (s.setI (addrWord nnn))

/-- Fx1E `ADD I, Vx` (R211): VF is not written. -/
def execAddI (x : Reg) (s : State) : Result :=
  commit (.addI x) s ((indexSum x s).map fun w => s.setI w)

/-- Fx29 `LD F, Vx` (R212). -/
def execLdF (x : Reg) (s : State) : Result := .next (s.setI (glyphBase (s.reg x)))

/-- Fx33 `LD B, Vx` (R213). -/
def execLdB (x : Reg) (s : State) : Result :=
  commit (.ldB x) s (storeBytes (dataBase s) (decimalDigits (s.reg x)) s)

/-- Fx55 `LD [I], Vx` (R214): I is unchanged. -/
def execStoreRegs (x : Reg) (s : State) : Result :=
  commit (.storeRegs x) s (storeBytes (dataBase s) (s.regsUpTo x) s)

/-- Fx65 `LD Vx, [I]` (R215): I is unchanged. -/
def execLoadRegs (x : Reg) (s : State) : Result :=
  commit (.loadRegs x) s ((loadBytes s (dataBase s) (x.toNat + 1)).map fun bs => s.setRegs bs)

end Sys2Proof.Machine
end

