-- ==== Sys2Proof/Machine/TimersKeys.lean ====
section
/-! DEFINITION. Timer access and key wait (`43_timers_keys.md`). -/

namespace Sys2Proof.Machine

/-- Fx07 `LD Vx, DT` (R240). -/
def execLdVxDt (x : Reg) (s : State) : Result := .next (s.setReg x s.dt)

/-- Fx0A `LD Vx, K` (R243): the key is polled from the next cycle on. -/
def execLdVxK (x : Reg) (s : State) : Result := .next (s.setMode (.awaitingKey x))

/-- Fx15 `LD DT, Vx` (R241). -/
def execLdDtVx (x : Reg) (s : State) : Result := .next (s.setDt (s.reg x))

/-- Fx18 `LD ST, Vx` (R242). -/
def execLdStVx (x : Reg) (s : State) : Result := .next (s.setSt (s.reg x))

end Sys2Proof.Machine
end

