-- ==== Sys2Proof/Machine/Driver.lean ====
section
/-! DEFINITION. The Cycle Driver (`60_exceptions.md`): fetch, display push, key poll, timer step and one cycle. -/

namespace Sys2Proof.Machine

/-- The word at PC, big-endian (R61, R101); a PC of 0xFFF or more raises `FetchOutOfBounds` (R316). -/
def fetchWord (s : State) : Except Raise Word :=
  if s.pc.toNat + 1 < memSize then .ok (wordOfBytes (s.byteAt s.pc.toNat) (s.byteAt (s.pc.toNat + 1)))
  else .error ⟨.fetchOutOfBounds, none⟩

/-- The instruction starts with PC advanced by 2, before its side effects (R26, R101). -/
def State.advance (s : State) : State := s.setPc (s.pc + 2)

/-- `fetch_and_execute` (R101). An `Unsupported` word raises `UnsupportedOpcode` (R96, R311). -/
def fetchAndExecute (s : State) : Result :=
  match fetchWord s with
  | .error e => .next (takeFault s.pc none e s)
  | .ok op =>
    match decodeWord op with
    | .error _ => .next (takeFault s.pc (some op) ⟨.unsupportedOpcode, none⟩ s)
    | .ok ins => exec ins s.advance

/-- The display push (R305): a dirty display sends a copy of FB to `refresh` and is clean again. -/
def pushDisplay (s : State) : State :=
  if s.dirty then { s with dirty := false, out := { s.out with refresh := some s.fb } } else s

/-- The key poll of an AwaitingKey(t) cycle (R304). -/
def pollKey (t : Reg) (s : State) : State :=
  match s.input.key with
  | none => s
  | some k => (s.setReg t (k.setWidth 8)).setMode .fetching

/-- A timer counted down by 1, floor at 0 (R306). -/
def countDown (b : Byte) : Byte := if b = 0 then 0 else b - 1

/-- Whether the accumulated milliseconds exceed 1/60 s (R306, D15). -/
def timerFires (acc : Nat) : Bool := decide (acc * 60 > 1000)

/-- The timer step (R306): DT and ST count down together when it fires, and the `beep` goes out when that takes ST from
a positive value to 0 (R307). -/
def timerStep (s : State) : State :=
  let acc := s.acc + s.input.tickMs
  if timerFires acc then
    { s with dt := countDown s.dt, st := countDown s.st, acc := 0,
             out := { s.out with beep := s.out.beep || (s.st != 0 && countDown s.st == 0) } }
  else { s with acc := acc }

/-- What follows an instruction in its cycle: the push and the timer step, or nothing if it faulted (R302, R319). -/
def finishInstruction (s : State) : State :=
  if s.status = .running then timerStep (pushDisplay s) else s

/-- A cycle starts with no event on the output ports (R301). -/
def State.clearPorts (s : State) : State := { s with out := {} }

/-- The rest of a Fetching cycle once the instruction has answered. -/
def closeFetching : Result → Result
  | .next t => .next (finishInstruction t).nextInput
  | .fault r => .fault r
  | .refused r => .refused r

/-- `cycle` (R302), on a Running core: the stop check comes first (R308, D16). -/
def cycle (s : State) : Result :=
  if s.input.stop then .next { s.clearPorts with status := .stopped }.nextInput
  else
    match s.mode with
    | .fetching => closeFetching (fetchAndExecute s.clearPorts)
    | .awaitingKey t => .next (timerStep (pollKey t s.clearPorts)).nextInput

end Sys2Proof.Machine
end

