-- ==== Sys2Proof/Machine/Step.lean ====
section
/-! DEFINITION. The step: one cycle of a Running core (`60_exceptions.md` R302). -/

namespace Sys2Proof.Machine

/-- Only a Running core takes a cycle (R40, R302): a Stopped or Faulted core has none (log entry 5). -/
def step (s : State) : Host.Outcome State Fault Refusal :=
  match s.status with
  | .running => cycle s
  | .stopped => .fault .coreStopped
  | .faulted r => .fault (.coreFaulted r)

/-- A quiet set of port values: no stop, no key, no time, a zero random byte (log entry 9). -/
def quietInput : Input := { stop := false, key := none, tickMs := 0, rand := 0 }

/-- The port values of the next cycle with no stop request: those of the queue, or quiet ones where it names none. -/
def runningInputs : List Input → List Input
  | [] => [quietInput]
  | inp :: rest => { inp with stop := false } :: rest

/-- The address a planted word is fetched from: PC, or the program base where no word can be fetched at PC. -/
def plantAddress (s : State) : Word :=
  if s.pc.toNat + 1 < memSize then s.pc else 0x200#16

/-- `s` with an instruction word stored where the next fetch reads it, and the next cycle a Fetching one that is not
stopped (log entry 9). -/
def State.withFetchWord (s : State) (nbits w : Nat) : State :=
  let a := plantAddress s
  let t := (s.setByte a.toNat (highByte (tableWord nbits w))).setByte (a.toNat + 1) (lowByte (tableWord nbits w))
  { t with pc := a, mode := .fetching, status := .running, inputs := runningInputs s.inputs }

end Sys2Proof.Machine
end

