-- ==== Sys2Proof/Safety.lean ====
section
/-! DEFINITION. The terms claims are stated in: the parts of the state and what "unchanged" means for each, a fault taken
by an instruction, the invariant of the core, and the pixels a sprite covers. None of them is used by the machine. -/

namespace Sys2Proof.Machine

/-- The parts of State. -/
inductive Part where
  | mem | v | i | pc | sp | stack | dt | st | fb | dirty | mode | acc | status | params | inputs | cycles | out
  deriving DecidableEq, Repr

/-- The part is the same in both states. Memory: every byte reads as before. Registers: every one reads as before. -/
def Part.Same (s t : State) : Part → Prop
  | .mem => ∀ a, t.byteAt a = s.byteAt a
  | .v => ∀ r, t.reg r = s.reg r
  | .i => t.i = s.i
  | .pc => t.pc = s.pc
  | .sp => t.sp = s.sp
  | .stack => t.stack = s.stack
  | .dt => t.dt = s.dt
  | .st => t.st = s.st
  | .fb => t.fb = s.fb
  | .dirty => t.dirty = s.dirty
  | .mode => t.mode = s.mode
  | .acc => t.acc = s.acc
  | .status => t.status = s.status
  | .params => t.params = s.params
  | .inputs => t.inputs = s.inputs
  | .cycles => t.cycles = s.cycles
  | .out => t.out = s.out

/-- FRAME: every part but those listed is unchanged from `s` to `t`. -/
def KeepsAllBut (changed : List Part) (s t : State) : Prop :=
  ∀ p, p ∉ changed → Part.Same s t p

/-- Every general register but those that satisfy `P` is unchanged from `s` to `t`. -/
def KeepsRegsBut (P : Reg → Prop) (s t : State) : Prop :=
  ∀ r, ¬ P r → t.reg r = s.reg r

/-- Every byte outside the `n` bytes from address `a` reads as before. -/
def KeepsBytesOutside (a n : Nat) (s t : State) : Prop :=
  ∀ c, (c < a ∨ a + n ≤ c) → t.byteAt c = s.byteAt c

/-- `t` is `s` after instruction `ins`, fetched from `a`, has raised a fault (R310, R319): PC is back at `a`, the status
and the `fault` port hold the record, and nothing else has changed. -/
def FaultTaken (ins : Instr) (a : Word) (cause : FaultCause) (info : Option Nat) (s t : State) : Prop :=
  t.status = .faulted { cause := cause, pc := some a, opcode := some (encode ins), info := info } ∧
  t.out = { fault := some { cause := cause, pc := some a, opcode := some (encode ins), info := info } } ∧
  t.pc = a ∧
  KeepsAllBut [.pc, .status, .out] s t

/-- The state is the reset state of R360 with the given parameters. -/
structure IsResetState (p : Params) (t : State) : Prop where
  glyphs : ∀ (a : Nat) (h : a < 80), t.byteAt a = p.glyphRom[a]
  zeroed : ∀ a, 80 ≤ a → a < memSize → t.byteAt a = 0
  regs : ∀ r, t.reg r = 0
  stack : ∀ k : Fin 16, t.stack[k] = 0
  sp : t.sp = 0
  i : t.i = 0
  pc : t.pc = 0x200#16
  dt : t.dt = 0
  st : t.st = 0
  fb : ∀ p : Nat, p < 2048 → t.fb.getLsbD p = false
  dirty : t.dirty = true
  mode : t.mode = .fetching
  acc : t.acc = 0
  status : t.status = .running
  params : t.params = p

/-- The invariant of the core: memory canonical; PC never above 0x10FE, nor a live return address above 0x1000 (R27,
R133); the accumulator at most 16 ms after a timer step (R306); no dirty display during a key wait (R305). -/
structure State.Inv (s : State) : Prop where
  mem : Memory.wf s.params.glyphRom s.mem
  pc : s.pc.toNat ≤ 0x10FE
  stack : ∀ (k : Nat) (h : k < 16), k < s.sp.val → s.stack[k].toNat ≤ 0x1000
  acc : s.acc ≤ 16
  wait : ∀ t, s.mode = .awaitingKey t → s.dirty = false

/-- The operands and the state let the instruction complete: none of the checks of R310's table fails. -/
def Completes (s : State) : Instr → Prop
  | .ret => s.sp.val ≠ 0
  | .call _ => s.sp.val ≠ 16
  | .ldReg x y | .orReg x y | .andReg x y | .xorReg x y => x ≠ vf ∧ y ≠ vf
  | .addI x => s.i.toNat + (s.reg x).toNat ≤ 0xFFFF
  | .ldB _ => s.i.toNat + 2 < memSize
  | .storeRegs x | .loadRegs x => s.i.toNat + x.toNat < memSize
  | .drw _ _ n => n.toNat = 0 ∨ s.i.toNat + (n.toNat - 1) < memSize
  | .cls | .jp _ | .seImm _ _ | .sneImm _ _ | .seReg _ _ | .ldImm _ _ | .addImm _ _ | .addReg _ _ | .subReg _ _
  | .shr _ _ | .subnReg _ _ | .shl _ _ | .sneReg _ _ | .ldI _ | .jpV0 _ | .rnd _ _ | .skp _ | .sknp _ | .ldVxDt _
  | .ldVxK _ | .ldDtVx _ | .ldStVx _ | .ldF _ => True

/-- The parts an instruction that completes may change, PC apart (R23, R31 to R42). -/
def Footprint : Instr → List Part
  | .cls => [.fb, .dirty]
  | .ret => [.sp]
  | .call _ => [.sp, .stack]
  | .ldI _ | .addI _ | .ldF _ => [.i]
  | .drw _ _ _ => [.v, .fb, .dirty]
  | .ldVxK _ => [.mode]
  | .ldDtVx _ => [.dt]
  | .ldStVx _ => [.st]
  | .ldB _ | .storeRegs _ => [.mem]
  | .ldImm _ _ | .addImm _ _ | .ldReg _ _ | .orReg _ _ | .andReg _ _ | .xorReg _ _ | .addReg _ _ | .subReg _ _
  | .shr _ _ | .subnReg _ _ | .shl _ _ | .rnd _ _ | .ldVxDt _ | .loadRegs _ => [.v]
  | .jp _ | .seImm _ _ | .sneImm _ _ | .seReg _ _ | .sneReg _ _ | .jpV0 _ | .skp _ | .sknp _ => []

/-- The general registers an instruction may write while it executes (R23). -/
def WritesReg (r : Reg) : Instr → Prop
  | .ldImm x _ | .addImm x _ | .ldReg x _ | .orReg x _ | .andReg x _ | .xorReg x _ | .rnd x _ | .ldVxDt x => r = x
  | .addReg x _ | .subReg x _ | .shr x _ | .subnReg x _ | .shl x _ => r = x ∨ r = vf
  | .drw _ _ _ => r = vf
  | .loadRegs x => r.toNat ≤ x.toNat
  | .cls | .ret | .jp _ | .call _ | .seImm _ _ | .sneImm _ _ | .seReg _ _ | .sneReg _ _ | .ldI _ | .jpV0 _ | .skp _
  | .sknp _ | .ldVxK _ | .ldDtVx _ | .ldStVx _ | .addI _ | .ldF _ | .ldB _ | .storeRegs _ => False

/-- The instruction reads the `key_in` port (R300). -/
def ReadsKey : Instr → Prop
  | .skp _ | .sknp _ => True
  | .cls | .ret | .jp _ | .call _ | .seImm _ _ | .sneImm _ _ | .seReg _ _ | .sneReg _ _ | .ldImm _ _ | .addImm _ _
  | .ldReg _ _ | .orReg _ _ | .andReg _ _ | .xorReg _ _ | .addReg _ _ | .subReg _ _ | .shr _ _ | .subnReg _ _
  | .shl _ _ | .ldI _ | .jpV0 _ | .rnd _ _ | .drw _ _ _ | .ldVxDt _ | .ldVxK _ | .ldDtVx _ | .ldStVx _ | .addI _
  | .ldF _ | .ldB _ | .storeRegs _ | .loadRegs _ => False

/-- The instruction reads the `rand` port (R300). -/
def ReadsRand : Instr → Prop
  | .rnd _ _ => True
  | .cls | .ret | .jp _ | .call _ | .seImm _ _ | .sneImm _ _ | .seReg _ _ | .sneReg _ _ | .ldImm _ _ | .addImm _ _
  | .ldReg _ _ | .orReg _ _ | .andReg _ _ | .xorReg _ _ | .addReg _ _ | .subReg _ _ | .shr _ _ | .subnReg _ _
  | .shl _ _ | .ldI _ | .jpV0 _ | .drw _ _ _ | .skp _ | .sknp _ | .ldVxDt _ | .ldVxK _ | .ldDtVx _ | .ldStVx _
  | .addI _ | .ldF _ | .ldB _ | .storeRegs _ | .loadRegs _ => False

/-- The two states differ at most in stack cells at index SP and above (R32, R44). -/
def SameButStaleStack (s t : State) : Prop :=
  t = { s with stack := t.stack } ∧ ∀ (k : Nat) (h : k < 16), k < s.sp.val → t.stack[k] = s.stack[k]

/-- Two answers of the machine that agree: next states that satisfy `R`, or the same stop. -/
def Agree (R : State → State → Prop) : Result → Result → Prop
  | .next s, .next t => R s t
  | .fault a, .fault b => a = b
  | .refused a, .refused b => a = b
  | .next _, .fault _ | .next _, .refused _ | .fault _, .next _ | .fault _, .refused _ | .refused _, .next _
  | .refused _, .fault _ => False

/-- The next cycle of the core fetches: it is Running, no stop is requested, and its mode is Fetching (R302). -/
def Fetches (s : State) : Prop := s.status = .running ∧ s.input.stop = false ∧ s.mode = .fetching

/-- The instruction word at PC: `mem[PC] * 256 + mem[PC + 1]` (R61). -/
def wordAtPc (s : State) : Word :=
  BitVec.ofNat 16 ((s.byteAt s.pc.toNat).toNat * 256 + (s.byteAt (s.pc.toNat + 1)).toNat)

/-- The state an instruction runs in: no event on the ports yet (R301), PC 2 past its address (R101). -/
def State.atExecute (s : State) : State := { s with out := {}, pc := s.pc + 2 }

/-- From `s` to `t` the timer engine has taken one step of `tick` milliseconds (R306, R307): past 1/60 s it counts DT
and ST down by 1, floor at 0, and beeps exactly when ST goes from 1 to 0. -/
def TimerStepped (tick : Nat) (s t : State) : Prop :=
  ((s.acc + tick) * 60 ≤ 1000 → t.dt = s.dt ∧ t.st = s.st ∧ t.acc = s.acc + tick ∧ t.out.beep = false) ∧
  ((s.acc + tick) * 60 > 1000 → t.dt.toNat = s.dt.toNat - 1 ∧ t.st.toNat = s.st.toNat - 1 ∧ t.acc = 0 ∧
    (t.out.beep = true ↔ s.st.toNat = 1))

/-- The pixel `FB[px, py]`, flat element `py * 64 + px` (R42). -/
def State.pixel (s : State) (px : Fin 64) (py : Fin 32) : Bool := s.fb.getLsbD (py.val * 64 + px.val)

/-- A sprite of `n` rows, with byte `byte row` in each row, drawn at (cx, cy), has a set bit that lands on the pixel:
bit `7 - col` is column `col`, and both axes wrap (R260, R262, R263). -/
def Covers (byte : Nat → Byte) (n cx cy : Nat) (px : Fin 64) (py : Fin 32) : Prop :=
  ∃ row col, row < n ∧ col < 8 ∧ (byte row).getLsbD (7 - col) = true ∧
    (cx + col) % 64 = px.val ∧ (cy + row) % 32 = py.val

/-- The coordinate Dxyn takes from a register: VF counts as 0 where the parameter says that it is read after the clear
(R262, D26). -/
def originCoord (s : State) (x : Reg) : Nat :=
  if s.params.drawCoordsAfterVfClear = true ∧ x = vf then 0 else (s.reg x).toNat

end Sys2Proof.Machine
end

