-- ==== Sys2Proof/Certificates/Slice0/Obligations.lean ====
section
/-! DEFINITION. The statements for the provers. Each is about every state and every operand its docstring names; exec is
applied to a state whose PC is already 2 past the instruction's address (R101), so that address is `s.pc - 2`. Decisions
D<n> are the spec's own (`92_eei_decisions.md`). Every clause that says what a fault leaves rests on two of them: the
record and its pc are D17, that the faulting cycle changes nothing else is D18. That a fault is a next state is log entry
5, that the address `s.pc - 2` and the word of `encode` stand in an instruction's record log entry 13. Clauses about
`inputs` and `cycles` are about the model's own input queue (log entry 1), those about `out` about its record of the last
cycle's events (log entry 2), those about `params` about the parameters of R6, which the model holds in State. -/

open Sys2Proof Sys2Proof.Machine

/-! ## Reset and boot -/

/-- R360: `reset`, in any status, leaves every item of R20's tuple at its reset value. That the parameters stay is not
R360's: they are fixed by R6, and that `reset` keeps them in State is log entry 7. The machine right after reset has the
font of R360's table as GLYPH_ROM. Zero in 0x050 to 0x1FF is D12; mode, acc and status are D20; the font is the spec's
default for an open parameter (D11, log entry 3). -/
def Obligations.ResetLeavesTheSpecifiedState : Prop :=
  (∀ s : State, IsResetState s.params (resetCore s)) ∧
  IsResetState State.reset.params State.reset ∧
  State.reset.params.glyphRom.toList =
    [0xF0#8, 0x90#8, 0x90#8, 0x90#8, 0xF0#8] ++ [0x20#8, 0x60#8, 0x20#8, 0x20#8, 0x70#8] ++
    [0xF0#8, 0x10#8, 0xF0#8, 0x80#8, 0xF0#8] ++ [0xF0#8, 0x10#8, 0xF0#8, 0x10#8, 0xF0#8] ++
    [0x90#8, 0x90#8, 0xF0#8, 0x10#8, 0x10#8] ++ [0xF0#8, 0x80#8, 0xF0#8, 0x10#8, 0xF0#8] ++
    [0xF0#8, 0x80#8, 0xF0#8, 0x90#8, 0xF0#8] ++ [0xF0#8, 0x10#8, 0x20#8, 0x40#8, 0x40#8] ++
    [0xF0#8, 0x90#8, 0xF0#8, 0x90#8, 0xF0#8] ++ [0xF0#8, 0x90#8, 0xF0#8, 0x10#8, 0xF0#8] ++
    [0xF0#8, 0x90#8, 0xF0#8, 0x90#8, 0x90#8] ++ [0xE0#8, 0x90#8, 0xE0#8, 0x90#8, 0xE0#8] ++
    [0xF0#8, 0x80#8, 0x80#8, 0x80#8, 0xF0#8] ++ [0xE0#8, 0x90#8, 0x90#8, 0x90#8, 0xE0#8] ++
    [0xF0#8, 0x80#8, 0xF0#8, 0x80#8, 0xF0#8] ++ [0xF0#8, 0x80#8, 0xF0#8, 0x80#8, 0x80#8]

/-- R362 and R314: an image of at most 3584 bytes is copied to 0x200 and nothing else changes; a longer one writes
nothing and faults `ProgramTooLarge` with its length. R363 places `load` between `reset` and the first cycle; that it is a
function of every state, also after a cycle and from a halted core, is the model's choice (log entry 8, D21). -/
def Obligations.LoadCopiesTheImageOrFaults : Prop :=
  ∀ (image : List Byte) (s : State),
    (image.length ≤ 3584 →
      (∀ (k : Nat) (h : k < image.length), (load image s).byteAt (0x200 + k) = image[k]) ∧
      KeepsBytesOutside 0x200 image.length s (load image s) ∧
      (load image s).out.fault = none ∧
      KeepsAllBut [.mem, .out] s (load image s)) ∧
    (image.length > 3584 →
      (load image s).status =
        .faulted { cause := .programTooLarge, pc := none, opcode := none, info := some image.length } ∧
      (load image s).out.fault =
        some { cause := .programTooLarge, pc := none, opcode := none, info := some image.length } ∧
      KeepsAllBut [.status, .out] s (load image s))

/-- R361: after `reset` and `load` the core is Running in mode Fetching, and its first fetch reads the image's first two
bytes, the first one high (R61, R62). That `reset` leaves it Running and Fetching is D20. -/
def Obligations.FirstFetchReadsTheImageAtProgramBase : Prop :=
  ∀ (hi lo : Byte) (rest : List Byte) (s : State), rest.length ≤ 3582 →
    (boot (hi :: lo :: rest) s).status = .running ∧
    (boot (hi :: lo :: rest) s).mode = .fetching ∧
    (boot (hi :: lo :: rest) s).pc = 0x200#16 ∧
    fetchWord (boot (hi :: lo :: rest) s) = .ok (BitVec.ofNat 16 (hi.toNat * 256 + lo.toNat))

/-- R362's remark on an empty image, derived there: the first cycle reads 0x0000 and faults `UnsupportedOpcode` at 0x200,
with no display push. The record is D17, no push after a fault D18, the Running core after `reset` D20. -/
def Obligations.EmptyImageFaultsInTheFirstCycle : Prop :=
  ∀ s : State, (boot [] s).input.stop = false →
    ∃ t, step (boot [] s) = .next t ∧
      t.status = .faulted { cause := .unsupportedOpcode, pc := some 0x200#16, opcode := some 0x0000#16, info := none } ∧
      t.out.refresh = none ∧ t.dirty = true ∧ t.pc = 0x200#16

/-! ## Encoding -/

/-- Decode and encode agree, from R95's table: every instruction, ill-formed ones included, decodes from its own word. -/
def Obligations.DecodeUndoesEncode : Prop :=
  ∀ i : Instr, decodeWord (encode i) = .ok i

/-- Each word has one meaning: a word that decodes is the word of its instruction. So the opcode of a fault record, which
the model takes from `encode`, is the word that was fetched (log entry 13). That every fixed nibble is matched is D8. -/
def Obligations.EncodeUndoesDecode : Prop :=
  ∀ (op : Word) (i : Instr), decodeWord op = .ok i → encode i = op

/-- R97's table of unsupported words, which the spec derives from R95: a word is rejected exactly when it is in one of
the table's classes, and it is rejected under its own name. The exact match of the fixed nibbles is D8. -/
def Obligations.RejectedWordsAreTheTabledOnes : Prop :=
  ∀ op : Word, decodeWord op = .error (.unsupported op) ↔
    (op.toNat / 4096 = 0x0 ∧ op.toNat ≠ 0x00E0 ∧ op.toNat ≠ 0x00EE) ∨
    (op.toNat / 4096 = 0x5 ∧ op.toNat % 16 ≠ 0) ∨
    (op.toNat / 4096 = 0x8 ∧ op.toNat % 16 ∈ [0x8, 0x9, 0xA, 0xB, 0xC, 0xD, 0xF]) ∨
    (op.toNat / 4096 = 0x9 ∧ op.toNat % 16 ≠ 0) ∨
    (op.toNat / 4096 = 0xE ∧ op.toNat % 256 ∉ [0x9E, 0xA1]) ∨
    (op.toNat / 4096 = 0xF ∧ op.toNat % 256 ∉ [0x07, 0x0A, 0x15, 0x18, 0x1E, 0x29, 0x33, 0x55, 0x65])

/-- A word of each family, and three words outside the table, from the decode vectors of `95_test_vectors.md`.
That 5121 is rejected is D8. -/
def Obligations.SampleWordsDecode : Prop :=
  decodeWord 0x00E0#16 = .ok .cls ∧ decodeWord 0x00EE#16 = .ok .ret ∧
  decodeWord 0x5120#16 = .ok (.seReg 1 2) ∧ decodeWord 0x8FF0#16 = .ok (.ldReg 0xF 0xF) ∧
  decodeWord 0xB300#16 = .ok (.jpV0 0x300) ∧ decodeWord 0xD015#16 = .ok (.drw 0 1 5) ∧
  decodeWord 0xE09E#16 = .ok (.skp 0) ∧ decodeWord 0xF50A#16 = .ok (.ldVxK 5) ∧
  decodeWord 0xFA33#16 = .ok (.ldB 0xA) ∧ decodeWord 0xF265#16 = .ok (.loadRegs 2) ∧
  decodeWord 0x0123#16 = .error (.unsupported 0x0123) ∧ decodeWord 0x5121#16 = .error (.unsupported 0x5121) ∧
  decodeWord 0xF090#16 = .error (.unsupported 0xF090)

/-! ## The cycle -/

/-- R101 and R302: in a Fetching cycle, where the word at PC decodes to `ins`, the step is `exec ins` in the state with PC
advanced by 2, followed by the display push and the timer step (`closeFetching`: nothing follows a fault, which is
D18). The timer step rests on D14 and D15, the push on D30; that the cycle uses up one set of port values is log entry 1. -/
def Obligations.StepRunsTheDecodedInstruction : Prop :=
  ∀ (s : State) (ins : Instr), Fetches s → s.pc.toNat + 1 < 4096 → decodeWord (wordAtPc s) = .ok ins →
    step s = closeFetching (exec ins s.atExecute)

/-- R302, R303 and R305 to R307: a Fetching cycle whose instruction completes in `u` pushes the framebuffer if it is
dirty, leaves it clean, takes one timer step, and changes nothing else of the core. The timer step's integer threshold is
D15, that only the countdown beeps (not an Fx18 that writes 0) D14, the copy that goes out D30. That the cycle uses up one
set of port values, the clauses on `inputs` and `cycles`, is the model's input queue (log entry 1). -/
def Obligations.CompletedInstructionEndsItsCycle : Prop :=
  ∀ (s u : State) (ins : Instr), Fetches s → s.pc.toNat + 1 < 4096 → decodeWord (wordAtPc s) = .ok ins →
    exec ins s.atExecute = .next u → u.status = .running →
    ∃ t, step s = .next t ∧
      t.dirty = false ∧ t.out.refresh = (if u.dirty then some u.fb else none) ∧ t.out.fault = none ∧
      TimerStepped s.input.tickMs u t ∧ t.inputs = s.inputs.tail ∧
      KeepsAllBut [.dt, .st, .acc, .dirty, .inputs, .cycles, .out] u t

/-- R304: a key wait fetches nothing; a key fills the awaited register and ends the wait, no key changes nothing; PC stays
and the timer step runs. The timer step's integer threshold is D15, that only it beeps D14, that key 0 is a key like any
other D23; the clauses on `inputs` and `cycles` are log entry 1. -/
def Obligations.KeyWaitPollsTheKeyPort : Prop :=
  ∀ (s : State) (r : Reg), s.status = .running → s.input.stop = false → s.mode = .awaitingKey r →
    ∃ t, step s = .next t ∧
      (s.input.key = none → t.mode = .awaitingKey r ∧ ∀ q, t.reg q = s.reg q) ∧
      (∀ k, s.input.key = some k →
        t.mode = .fetching ∧ (t.reg r).toNat = k.toNat ∧ KeepsRegsBut (fun q => q = r) s t) ∧
      TimerStepped s.input.tickMs s t ∧ t.out.refresh = none ∧ t.out.fault = none ∧
      KeepsAllBut [.v, .mode, .dt, .st, .acc, .inputs, .cycles, .out] s t

/-- A wait lasts as long as no key comes (R243, R329): through any number of cycles that name neither a key nor a stop,
PC, the registers and the wait itself stay as they were. The key value of a cycle is D13; `inputs` is log entry 1. -/
def Obligations.KeyWaitHoldsWhileNoKeyComes : Prop :=
  ∀ (n : Nat) (s : State) (r : Reg), s.status = .running → s.mode = .awaitingKey r → n ≤ s.inputs.length →
    (∀ inp ∈ s.inputs.take n, inp.stop = false ∧ inp.key = none) →
    ∃ t, Sys2Proof.core.run n s = .next t ∧
      KeepsAllBut [.dt, .st, .acc, .inputs, .cycles, .out] s t

/-- R306 and R307: the timer step. The integer threshold is D15; that a write of 0 does not beep is D14. -/
def Obligations.TimerStepCountsDownAndBeeps : Prop :=
  ∀ s : State, s.out.beep = false →
    TimerStepped s.input.tickMs s (timerStep s) ∧
    (timerStep s).out.refresh = s.out.refresh ∧ (timerStep s).out.fault = s.out.fault ∧
    KeepsAllBut [.dt, .st, .acc, .out] s (timerStep s)

/-- R308: a stop request at the start of a cycle stops the core and does nothing else; there is no further cycle (the
model's step then answers a fault of its own: log entry 5). The place of the check is D16; the clauses on `inputs` and
`cycles` are log entry 1. -/
def Obligations.StopRequestEndsTheCycleAtOnce : Prop :=
  ∀ s : State, s.status = .running → s.input.stop = true →
    ∃ t, step s = .next t ∧ t.status = .stopped ∧ t.out.refresh = none ∧ t.out.beep = false ∧ t.out.fault = none ∧
      KeepsAllBut [.status, .inputs, .cycles, .out] s t ∧ step t = .fault .coreStopped

/-- R302's "A core whose status is `Stopped` or `Faulted` has no cycle", as the model's choice of a stuck state (log entry
5): the step answers a fault. That `reset` makes the core Running again is R40 and R360, where the value Running is D20. -/
def Obligations.HaltedCoreTakesNoCycle : Prop :=
  ∀ s : State, s.status ≠ .running → (∃ f, step s = .fault f) ∧ (resetCore s).status = .running

/-- A Running core always takes its cycle: no instruction is refused and none leaves the machine stuck (R302). That
a cycle which ends Stopped or Faulted is a next state is the model's choice (log entry 5). -/
def Obligations.RunningCoreAlwaysAnswersANextState : Prop :=
  ∀ s : State, s.status = .running → ∃ t, step s = .next t

/-! ## Faults -/

/-- R316: a fetch with PC at 0xFFF or above faults, with a record that has the PC and no opcode (D3). The rest
of the record is D17, that nothing else changes D18. -/
def Obligations.FetchPastMemoryFaults : Prop :=
  ∀ s : State, Fetches s → s.pc.toNat ≥ 0xFFF →
    ∃ t, step s = .next t ∧
      t.status = .faulted { cause := .fetchOutOfBounds, pc := some s.pc, opcode := none, info := none } ∧
      t.out = { fault := some { cause := .fetchOutOfBounds, pc := some s.pc, opcode := none, info := none } } ∧
      KeepsAllBut [.status, .inputs, .cycles, .out] s t

/-- R96 and R311: fetching a word outside the table faults `UnsupportedOpcode` with that word. Which words those are
rests on D8, the record on D17, that nothing else changes on D18. -/
def Obligations.UnsupportedWordFaults : Prop :=
  ∀ s : State, Fetches s → s.pc.toNat + 1 < 4096 → decodeWord (wordAtPc s) = .error (.unsupported (wordAtPc s)) →
    ∃ t, step s = .next t ∧
      t.status =
        .faulted { cause := .unsupportedOpcode, pc := some s.pc, opcode := some (wordAtPc s), info := none } ∧
      t.out =
        { fault := some { cause := .unsupportedOpcode, pc := some s.pc, opcode := some (wordAtPc s), info := none } } ∧
      KeepsAllBut [.status, .inputs, .cycles, .out] s t

/-- R319: faults are precise. A cycle that ends Faulted has changed nothing but the status, the ports and the model's own
input queue: no register, no byte, no pixel, not the PC, no timer; the record goes out alone, and its pc and opcode are
those of the cycle's own fetch. Discarding the writes is D18, the record D17; the model takes pc and opcode as log entry 13
says. -/
def Obligations.FaultsArePrecise : Prop :=
  ∀ (s t : State) (r : FaultRecord), step s = .next t → t.status = .faulted r →
    KeepsAllBut [.status, .inputs, .cycles, .out] s t ∧ t.out = { fault := some r } ∧ r.pc = some s.pc ∧
    (r.opcode = if s.pc.toNat + 1 < 4096 then some (wordAtPc s) else none)

/-- The table of R310 says which instruction can fault and when: an instruction answers a next state always, and that
state is still Running exactly when the check that the table gives it (if any) passes. The checks of the memory accesses,
of Fx1E and of 8xy0 to 8xy3 are D2, D4 and D6, that a jump has none D5; that a fault is a next state is log entry 5. -/
def Obligations.InstructionFaultsExactlyWhenItsCheckFails : Prop :=
  ∀ (ins : Instr) (s : State), s.status = .running →
    ∃ t, exec ins s = .next t ∧ (t.status = .running ↔ Completes s ins)

/-! ## Whole-machine rules -/

/-- Every step keeps the invariant: memory canonical, PC at most 0x10FE and live return addresses at most 0x1000 (R27), the
accumulator at most 16 ms, no dirty display in a key wait (R305). The bound on PC uses the fetch
check D3 and the unchecked targets of D5, the accumulator's the threshold D15; the canonical form is log entry 15. -/
def Obligations.EveryStepKeepsTheInvariant : Prop :=
  ∀ s t : State, s.Inv → step s = .next t → t.Inv

/-- The reset state meets the invariant; mode, acc and status are D20, the canonical form is log entry 15. -/
def Obligations.ResetMeetsTheInvariant : Prop := State.reset.Inv

/-- A core that has been reset, in any status, and loaded with any image meets the invariant. Mode and acc are D20,
that a failed load writes nothing D21; the canonical form is log entry 15. -/
def Obligations.BootMeetsTheInvariant : Prop :=
  ∀ (image : List Byte) (s : State), (boot image s).Inv

/-- R32 and R44: the stale stack cells, at index SP and above, are invisible. Two states that differ only there answer
the same, up to stale cells, whatever the step does. The stop of a halted core is log entry 5. -/
def Obligations.StaleStackCellsAreInvisible : Prop :=
  ∀ s t : State, SameButStaleStack s t → Agree SameButStaleStack (step s) (step t)

/-- R23 and the "written only by" sentences of R31 to R42: an instruction that completes changes PC, the parts of its
footprint, and no other part; of the general registers, only those R23's table gives it. That Fx55 and Fx65
keep I is D9, that Dxyn always sets dirty D10, that Fx0A writes no register yet D13, that no instruction beeps D14. -/
def Obligations.EachInstructionStaysInItsFootprint : Prop :=
  ∀ (ins : Instr) (s t : State), s.status = .running → exec ins s = .next t → t.status = .running →
    KeepsAllBut (.pc :: Footprint ins) s t ∧ KeepsRegsBut (fun r => WritesReg r ins) s t

/-- R300's "read by" column: `key_in` is read by Ex9E and ExA1 and `rand` by Cxnn, and no instruction reads `stop` or
`tick_ms`. Changing a port an instruction does not read changes nothing of what it does. One `key_in` for
every reader is D13, `rand` as a port D22, the stop check outside the instruction D16; `inputs` is log entry 1. -/
def Obligations.InstructionsReadOnlyTheirPorts : Prop :=
  ∀ (ins : Instr) (s : State) (a b : Input) (rest : List Input), s.inputs = a :: rest →
    (ReadsKey ins → a.key = b.key) → (ReadsRand ins → a.rand = b.rand) →
    Agree (fun t u => u = { t with inputs := b :: rest }) (exec ins s) (exec ins { s with inputs := b :: rest })

/-- The model's own fields (log entries 1, 3 and 4): no step changes a parameter, and each uses up one set of port
values. -/
def Obligations.StepKeepsParametersAndUsesOneInput : Prop :=
  ∀ s t : State, step s = .next t →
    t.params = s.params ∧ t.inputs = s.inputs.tail ∧ t.cycles = s.cycles + 1

/-! ## Control flow -/

/-- R131 and R132: the two jumps. That a target past memory is not checked here is D5. -/
def Obligations.JumpsSetThePc : Prop :=
  ∀ (s : State) (nnn : Addr),
    (∃ t, exec (.jp nnn) s = .next t ∧ t.pc.toNat = nnn.toNat ∧ KeepsAllBut [.pc] s t) ∧
    (∃ t, exec (.jpV0 nnn) s = .next t ∧ t.pc.toNat = nnn.toNat + (s.reg 0).toNat ∧ KeepsAllBut [.pc] s t)

/-- R133 and R312: CALL pushes the advanced PC and jumps; at depth 16 it faults. -/
def Obligations.CallPushesTheReturnAddress : Prop :=
  ∀ (s : State) (nnn : Addr),
    (s.sp.val < 16 → ∃ t, exec (.call nnn) s = .next t ∧
      t.pc.toNat = nnn.toNat ∧ t.sp.val = s.sp.val + 1 ∧
      (∀ k : Fin 16, t.stack[k] = if k.val = s.sp.val then s.pc else s.stack[k]) ∧
      KeepsAllBut [.pc, .sp, .stack] s t) ∧
    (s.sp.val = 16 → ∃ t, exec (.call nnn) s = .next t ∧
      FaultTaken (.call nnn) (s.pc - 2) .stackOverflow none s t)

/-- R130 and R313: RET pops the last return address into PC, and the popped cell keeps its value; on an empty stack it
faults. -/
def Obligations.ReturnPopsTheStack : Prop :=
  ∀ s : State,
    (∀ k : Fin 16, s.sp.val = k.val + 1 → ∃ t, exec .ret s = .next t ∧
      t.pc = s.stack[k] ∧ t.sp.val = k.val ∧ KeepsAllBut [.pc, .sp] s t) ∧
    (s.sp.val = 0 → ∃ t, exec .ret s = .next t ∧ FaultTaken .ret (s.pc - 2) .stackUnderflow none s t)

/-- A return undoes the call it belongs to, whatever the subroutine did to the rest of the machine, as long as it left the
stack as it found it (R130, R133). -/
def Obligations.ReturnUndoesCall : Prop :=
  ∀ (s t u : State) (nnn : Addr), s.sp.val < 16 → exec (.call nnn) s = .next t →
    u.sp = t.sp → (∀ k : Fin 16, k.val < t.sp.val → u.stack[k] = t.stack[k]) →
    ∃ w, exec .ret u = .next w ∧ w.pc = s.pc ∧ w.sp = s.sp ∧ KeepsAllBut [.pc, .sp] u w

/-- R134 and R135: the skips on an immediate. -/
def Obligations.SkipsOnImmediate : Prop :=
  ∀ (s : State) (x : Reg) (nn : Byte),
    (∃ t, exec (.seImm x nn) s = .next t ∧
      t.pc = (if (s.reg x).toNat = nn.toNat then s.pc + 2 else s.pc) ∧ KeepsAllBut [.pc] s t) ∧
    (∃ t, exec (.sneImm x nn) s = .next t ∧
      t.pc = (if (s.reg x).toNat = nn.toNat then s.pc else s.pc + 2) ∧ KeepsAllBut [.pc] s t)

/-- R136 and R137: the skips on two registers. -/
def Obligations.SkipsOnRegisters : Prop :=
  ∀ (s : State) (x y : Reg),
    (∃ t, exec (.seReg x y) s = .next t ∧
      t.pc = (if (s.reg x).toNat = (s.reg y).toNat then s.pc + 2 else s.pc) ∧ KeepsAllBut [.pc] s t) ∧
    (∃ t, exec (.sneReg x y) s = .next t ∧
      t.pc = (if (s.reg x).toNat = (s.reg y).toNat then s.pc else s.pc + 2) ∧ KeepsAllBut [.pc] s t)

/-- R138 and R139: the skips on this cycle's key. A register above 15 matches no key. Sampling is D13; key 0 is D23. -/
def Obligations.SkipsOnKey : Prop :=
  ∀ (s : State) (x : Reg),
    (∃ t, exec (.skp x) s = .next t ∧ KeepsAllBut [.pc] s t ∧
      ((∃ k : Nibble, s.input.key = some k ∧ k.toNat = (s.reg x).toNat) → t.pc = s.pc + 2) ∧
      ((¬ ∃ k : Nibble, s.input.key = some k ∧ k.toNat = (s.reg x).toNat) → t.pc = s.pc)) ∧
    (∃ t, exec (.sknp x) s = .next t ∧ KeepsAllBut [.pc] s t ∧
      ((∃ k : Nibble, s.input.key = some k ∧ k.toNat = (s.reg x).toNat) → t.pc = s.pc) ∧
      ((¬ ∃ k : Nibble, s.input.key = some k ∧ k.toNat = (s.reg x).toNat) → t.pc = s.pc + 2))

/-! ## Register loads, arithmetic and logic -/

/-- R172 and R173: load and add immediate; no flag is written. -/
def Obligations.LoadAndAddImmediate : Prop :=
  ∀ (s : State) (x : Reg) (nn : Byte),
    (∃ t, exec (.ldImm x nn) s = .next t ∧ t.reg x = nn ∧
      KeepsRegsBut (fun r => r = x) s t ∧ KeepsAllBut [.v] s t) ∧
    (∃ t, exec (.addImm x nn) s = .next t ∧ (t.reg x).toNat = ((s.reg x).toNat + nn.toNat) % 256 ∧
      KeepsRegsBut (fun r => r = x) s t ∧ KeepsAllBut [.v] s t)

/-- R171 and R174 to R177: copy, OR, AND and XOR write Vx and no flag, bit by bit; with VF as an operand they fault
`OperandInvariant` (the fault is D6) and write nothing. -/
def Obligations.CopyAndLogicAvoidTheFlag : Prop :=
  ∀ (s : State) (x y : Reg),
    (x ≠ vf ∧ y ≠ vf →
      (∃ t, exec (.ldReg x y) s = .next t ∧ t.reg x = s.reg y ∧
        KeepsRegsBut (fun r => r = x) s t ∧ KeepsAllBut [.v] s t) ∧
      (∃ t, exec (.orReg x y) s = .next t ∧
        (∀ b, (t.reg x).getLsbD b = ((s.reg x).getLsbD b || (s.reg y).getLsbD b)) ∧
        KeepsRegsBut (fun r => r = x) s t ∧ KeepsAllBut [.v] s t) ∧
      (∃ t, exec (.andReg x y) s = .next t ∧
        (∀ b, (t.reg x).getLsbD b = ((s.reg x).getLsbD b && (s.reg y).getLsbD b)) ∧
        KeepsRegsBut (fun r => r = x) s t ∧ KeepsAllBut [.v] s t) ∧
      (∃ t, exec (.xorReg x y) s = .next t ∧
        (∀ b, (t.reg x).getLsbD b = ((s.reg x).getLsbD b ^^ (s.reg y).getLsbD b)) ∧
        KeepsRegsBut (fun r => r = x) s t ∧ KeepsAllBut [.v] s t)) ∧
    (x = vf ∨ y = vf →
      ∀ ins ∈ [Instr.ldReg x y, Instr.orReg x y, Instr.andReg x y, Instr.xorReg x y],
        ∃ t, exec ins s = .next t ∧ FaultTaken ins (s.pc - 2) .operandInvariant none s t)

/-- R178: the sum mod 256, and VF the carry. That VF is written last, so that it ends as the carry when x = F, and that
y = F reads the old VF, is D7 (R170, C1). -/
def Obligations.AddSetsTheCarry : Prop :=
  ∀ (s : State) (x y : Reg),
    ∃ t, exec (.addReg x y) s = .next t ∧
      (x ≠ vf → (t.reg x).toNat = ((s.reg x).toNat + (s.reg y).toNat) % 256) ∧
      (t.reg vf).toNat = (if (s.reg x).toNat + (s.reg y).toNat > 255 then 1 else 0) ∧
      KeepsRegsBut (fun r => r = x ∨ r = vf) s t ∧ KeepsAllBut [.v] s t

/-- R179 and R181: the two differences mod 256, and VF the borrow itself. That VF is written last and the operands
are read before any write, which decides the forms with x = F or y = F, is D7 (R170, C1). -/
def Obligations.SubtractSetsTheBorrow : Prop :=
  ∀ (s : State) (x y : Reg),
    (∃ t, exec (.subReg x y) s = .next t ∧
      (x ≠ vf → ((t.reg x).toNat : Int) = ((s.reg x).toNat - (s.reg y).toNat : Int) % 256) ∧
      (t.reg vf).toNat = (if (s.reg y).toNat > (s.reg x).toNat then 1 else 0) ∧
      KeepsRegsBut (fun r => r = x ∨ r = vf) s t ∧ KeepsAllBut [.v] s t) ∧
    (∃ t, exec (.subnReg x y) s = .next t ∧
      (x ≠ vf → ((t.reg x).toNat : Int) = ((s.reg y).toNat - (s.reg x).toNat : Int) % 256) ∧
      (t.reg vf).toNat = (if (s.reg x).toNat > (s.reg y).toNat then 1 else 0) ∧
      KeepsRegsBut (fun r => r = x ∨ r = vf) s t ∧ KeepsAllBut [.v] s t)

/-- R180 and R182: the shifts of Vx by one, whatever y, and VF the bit shifted out. That VF is written last, so
that it ends as that bit when x = F, is D7 (R170, C1). -/
def Obligations.ShiftsMoveTheLostBitToTheFlag : Prop :=
  ∀ (s : State) (x y : Reg),
    (∃ t, exec (.shr x y) s = .next t ∧
      (x ≠ vf → (t.reg x).toNat = (s.reg x).toNat / 2) ∧
      (t.reg vf).toNat = (s.reg x).toNat % 2 ∧
      KeepsRegsBut (fun r => r = x ∨ r = vf) s t ∧ KeepsAllBut [.v] s t) ∧
    (∃ t, exec (.shl x y) s = .next t ∧
      (x ≠ vf → (t.reg x).toNat = (s.reg x).toNat * 2 % 256) ∧
      (t.reg vf).toNat = (s.reg x).toNat / 128 ∧
      KeepsRegsBut (fun r => r = x ∨ r = vf) s t ∧ KeepsAllBut [.v] s t)

/-- R183: this cycle's random byte under the mask, for every value of the port (D22). -/
def Obligations.RandomByteIsMasked : Prop :=
  ∀ (s : State) (x : Reg) (nn : Byte),
    ∃ t, exec (.rnd x nn) s = .next t ∧
      (∀ b, (t.reg x).getLsbD b = (s.input.rand.getLsbD b && nn.getLsbD b)) ∧
      KeepsRegsBut (fun r => r = x) s t ∧ KeepsAllBut [.v] s t

/-! ## Index register and memory -/

/-- R210 and R212: LD I takes the address; LD F takes five times the register, not masked. -/
def Obligations.IndexLoadsTakeAddressOrGlyph : Prop :=
  ∀ (s : State) (nnn : Addr) (x : Reg),
    (∃ t, exec (.ldI nnn) s = .next t ∧ t.i.toNat = nnn.toNat ∧ KeepsAllBut [.i] s t) ∧
    (∃ t, exec (.ldF x) s = .next t ∧ t.i.toNat = (s.reg x).toNat * 5 ∧ KeepsAllBut [.i] s t)

/-- R211 and R318: ADD I holds the exact sum, VF untouched; a sum past 0xFFFF faults `IndexOverflow` (the fault is D4). -/
def Obligations.AddToIndexIsExactOrFaults : Prop :=
  ∀ (s : State) (x : Reg),
    (s.i.toNat + (s.reg x).toNat ≤ 0xFFFF → ∃ t, exec (.addI x) s = .next t ∧
      t.i.toNat = s.i.toNat + (s.reg x).toNat ∧ KeepsAllBut [.i] s t) ∧
    (s.i.toNat + (s.reg x).toNat > 0xFFFF → ∃ t, exec (.addI x) s = .next t ∧
      FaultTaken (.addI x) (s.pc - 2) .indexOverflow none s t)

/-- R213: hundreds, tens and units at I, I + 1, I + 2, and no other byte; out of bounds it faults with the first bad
address (R317, R320) and stores nothing. The bounds fault is D2, the lowest
bad address D29. -/
def Obligations.DecimalDigitsAreStored : Prop :=
  ∀ (s : State) (x : Reg),
    (s.i.toNat + 2 < 4096 → ∃ t, exec (.ldB x) s = .next t ∧
      (t.byteAt s.i.toNat).toNat = (s.reg x).toNat / 100 ∧
      (t.byteAt (s.i.toNat + 1)).toNat = (s.reg x).toNat / 10 % 10 ∧
      (t.byteAt (s.i.toNat + 2)).toNat = (s.reg x).toNat % 10 ∧
      KeepsBytesOutside s.i.toNat 3 s t ∧ KeepsAllBut [.mem] s t) ∧
    (s.i.toNat + 2 ≥ 4096 → ∃ t, exec (.ldB x) s = .next t ∧
      FaultTaken (.ldB x) (s.pc - 2) .dataOutOfBounds (some (max s.i.toNat 4096)) s t)

/-- R214: V0 to Vx at I to I + x, and no other byte; I unchanged (D9); out of bounds it faults with the first bad address
(R317, R320) and stores nothing. The bounds fault is D2, the lowest
bad address D29. -/
def Obligations.RegistersAreStored : Prop :=
  ∀ (s : State) (x : Reg),
    (s.i.toNat + x.toNat < 4096 → ∃ t, exec (.storeRegs x) s = .next t ∧
      (∀ r : Reg, r.toNat ≤ x.toNat → t.byteAt (s.i.toNat + r.toNat) = s.reg r) ∧
      KeepsBytesOutside s.i.toNat (x.toNat + 1) s t ∧ KeepsAllBut [.mem] s t) ∧
    (s.i.toNat + x.toNat ≥ 4096 → ∃ t, exec (.storeRegs x) s = .next t ∧
      FaultTaken (.storeRegs x) (s.pc - 2) .dataOutOfBounds (some (max s.i.toNat 4096)) s t)

/-- R215: V0 to Vx from I to I + x, and no other register; I unchanged (D9); out of bounds it faults with the first bad
address (R317, R320) and loads nothing. The bounds fault is D2, the lowest
bad address D29. -/
def Obligations.RegistersAreLoaded : Prop :=
  ∀ (s : State) (x : Reg),
    (s.i.toNat + x.toNat < 4096 → ∃ t, exec (.loadRegs x) s = .next t ∧
      (∀ r : Reg, r.toNat ≤ x.toNat → t.reg r = s.byteAt (s.i.toNat + r.toNat)) ∧
      KeepsRegsBut (fun r => r.toNat ≤ x.toNat) s t ∧ KeepsAllBut [.v] s t) ∧
    (s.i.toNat + x.toNat ≥ 4096 → ∃ t, exec (.loadRegs x) s = .next t ∧
      FaultTaken (.loadRegs x) (s.pc - 2) .dataOutOfBounds (some (max s.i.toNat 4096)) s t)

/-- A store and a load of the same registers at the same I agree: V0 to Vx come back, whatever happened to the registers
in between (R214, R215, R73). That the two instructions keep I is D9. -/
def Obligations.LoadRestoresStoredRegisters : Prop :=
  ∀ (s t u : State) (x : Reg), s.i.toNat + x.toNat < 4096 → exec (.storeRegs x) s = .next t →
    u.i = s.i → (∀ a, u.byteAt a = t.byteAt a) →
    ∃ w, exec (.loadRegs x) u = .next w ∧ ∀ r : Reg, r.toNat ≤ x.toNat → w.reg r = s.reg r

/-- R76 (D27): a store is seen by the very next fetch. Where Fx55 stores V[k] and V[k+1] over the next instruction word,
that word is fetched. -/
def Obligations.StoreIsSeenByTheNextFetch : Prop :=
  ∀ (s t : State) (x k : Reg), s.i.toNat + x.toNat < 4096 → exec (.storeRegs x) s = .next t →
    k.toNat + 1 ≤ x.toNat → s.i.toNat + k.toNat = s.pc.toNat →
    fetchWord t = .ok (BitVec.ofNat 16 ((s.reg k).toNat * 256 + (s.reg (k + 1)).toNat))

/-! ## Timers and keys -/

/-- R240 to R242: the timer transfers. No beep comes from an instruction (D14). -/
def Obligations.TimerTransfers : Prop :=
  ∀ (s : State) (x : Reg),
    (∃ t, exec (.ldVxDt x) s = .next t ∧ t.reg x = s.dt ∧
      KeepsRegsBut (fun r => r = x) s t ∧ KeepsAllBut [.v] s t) ∧
    (∃ t, exec (.ldDtVx x) s = .next t ∧ t.dt = s.reg x ∧ KeepsAllBut [.dt] s t) ∧
    (∃ t, exec (.ldStVx x) s = .next t ∧ t.st = s.reg x ∧ KeepsAllBut [.st] s t)

/-- R243: Fx0A starts the wait; PC stays at the next instruction and Vx is not written yet. The first poll is in a later
cycle (D13). -/
def Obligations.KeyWaitBegins : Prop :=
  ∀ (s : State) (x : Reg),
    ∃ t, exec (.ldVxK x) s = .next t ∧ t.mode = .awaitingKey x ∧ KeepsAllBut [.mode] s t

/-! ## Display -/

/-- R261: CLS clears every pixel and sets dirty, even when the framebuffer was already clear. -/
def Obligations.ClearScreenClearsEveryPixel : Prop :=
  ∀ s : State, ∃ t, exec .cls s = .next t ∧
    (∀ px py, t.pixel px py = false) ∧ t.dirty = true ∧ KeepsAllBut [.fb, .dirty] s t

/-- R262 with R260, R263 and R264: a sprite that can be read whole flips exactly the pixels its set bits land on, both
axes wrapping; VF is 1 if a pixel that was set is covered, else 0, and is written even when n = 0; the display is dirty.
A sprite that runs past memory faults with the first bad address and draws nothing. Bit order is D31, dirty D10, the
order of the coordinate read and the clear of VF the parameter of D26, the bounds fault D2, the lowest bad
address D29. -/
def Obligations.DrawFlipsTheCoveredPixels : Prop :=
  ∀ (s : State) (x y : Reg) (n : Nibble),
    (n.toNat = 0 ∨ s.i.toNat + (n.toNat - 1) < 4096 → ∃ t, exec (.drw x y n) s = .next t ∧
      (∀ px py,
        (Covers (fun row => s.byteAt (s.i.toNat + row)) n.toNat (originCoord s x) (originCoord s y) px py →
          t.pixel px py = !s.pixel px py) ∧
        (¬ Covers (fun row => s.byteAt (s.i.toNat + row)) n.toNat (originCoord s x) (originCoord s y) px py →
          t.pixel px py = s.pixel px py)) ∧
      ((∃ px py, Covers (fun row => s.byteAt (s.i.toNat + row)) n.toNat (originCoord s x) (originCoord s y) px py ∧
          s.pixel px py = true) → t.reg vf = 1) ∧
      ((¬ ∃ px py, Covers (fun row => s.byteAt (s.i.toNat + row)) n.toNat (originCoord s x) (originCoord s y) px py ∧
          s.pixel px py = true) → t.reg vf = 0) ∧
      t.dirty = true ∧ KeepsRegsBut (fun r => r = vf) s t ∧ KeepsAllBut [.v, .fb, .dirty] s t) ∧
    (n.toNat ≠ 0 ∧ s.i.toNat + (n.toNat - 1) ≥ 4096 → ∃ t, exec (.drw x y n) s = .next t ∧
      FaultTaken (.drw x y n) (s.pc - 2) .dataOutOfBounds (some (max s.i.toNat 4096)) s t)

/-- R265, which the spec derives from R262: two draws of the same sprite at the same place, with the framebuffer untouched
between them, restore it; the second draw's VF is 1 exactly when some covered pixel was clear before the first.
Bit order is D31, the coordinates of VF the parameter of D26. -/
def Obligations.DrawingTwiceRestoresTheFramebuffer : Prop :=
  ∀ (s t u : State) (x y x' y' : Reg) (n : Nibble),
    (n.toNat = 0 ∨ s.i.toNat + (n.toNat - 1) < 4096) → exec (.drw x y n) s = .next t →
    u.fb = t.fb → (n.toNat = 0 ∨ u.i.toNat + (n.toNat - 1) < 4096) →
    (∀ row, row < n.toNat → u.byteAt (u.i.toNat + row) = s.byteAt (s.i.toNat + row)) →
    originCoord u x' = originCoord s x → originCoord u y' = originCoord s y →
    ∃ w, exec (.drw x' y' n) u = .next w ∧ w.fb = s.fb ∧
      (w.reg vf = 1 ↔
        ∃ px py, Covers (fun row => s.byteAt (s.i.toNat + row)) n.toNat (originCoord s x) (originCoord s y) px py ∧
          s.pixel px py = false)

/-- R266, which the spec derives from R261 and R262: the first draw after CLS never collides, whatever happened between
them short of another draw. That n = 0 leaves VF = 0 is D10. -/
def Obligations.FirstDrawAfterClearDoesNotCollide : Prop :=
  ∀ (s t u : State) (x y : Reg) (n : Nibble), exec .cls s = .next t → u.fb = t.fb →
    (n.toNat = 0 ∨ u.i.toNat + (n.toNat - 1) < 4096) →
    ∃ w, exec (.drw x y n) u = .next w ∧ w.reg vf = 0
end

