-- ==== Sys2Proof/Laws/Memory.lean ====
section
/-! SUPPORT. The laws of the memory: a read after a write, and that every operation keeps the canonical form. -/

namespace Sys2Proof.Machine

theorem lookup_insert (m : Memory) (a c : Nat) (b : Byte) :
    Memory.lookup (Memory.insert m a b) c = if c = a then some b else Memory.lookup m c := by
  induction m with
  | nil => simp [Memory.insert, Memory.lookup, eq_comm]
  | cons kb m ih =>
    obtain ⟨k, d⟩ := kb
    simp only [Memory.insert]
    split
    · simp [Memory.lookup, eq_comm (a := a)]
    · split
      · subst_vars; simp only [Memory.lookup]; grind
      · simp only [Memory.lookup, ih]; grind

theorem lookup_erase (m : Memory) (a c : Nat) :
    Memory.lookup (Memory.erase m a) c = if c = a then none else Memory.lookup m c := by
  induction m with
  | nil => simp [Memory.erase, Memory.lookup]
  | cons kb m ih =>
    obtain ⟨k, d⟩ := kb
    simp only [Memory.erase]
    split
    · simp only [ih, Memory.lookup]; grind
    · simp only [Memory.lookup, ih]; grind

/-- A read after a write: the value written at that address, the old value at every other (R73). -/
theorem read_write (rom : Vector Byte 80) (m : Memory) (a c : Nat) (b : Byte) :
    Memory.read rom (Memory.write rom m a b) c = if c = a then b else Memory.read rom m c := by
  unfold Memory.read Memory.write
  split
  · rw [lookup_erase]; split <;> simp_all
  · rw [lookup_insert]; split <;> simp_all

theorem mem_erase {m : Memory} {a : Nat} {c : Host.Cell} (h : c ∈ Memory.erase m a) : c ∈ m := by
  induction m with
  | nil => exact h
  | cons kb m ih =>
    obtain ⟨k, d⟩ := kb
    simp only [Memory.erase] at h
    split at h
    · exact List.mem_cons_of_mem _ (ih h)
    · rcases List.mem_cons.1 h with rfl | h
      · exact List.mem_cons_self
      · exact List.mem_cons_of_mem _ (ih h)

theorem mem_insert {m : Memory} {a : Nat} {b : Byte} {c : Host.Cell} (h : c ∈ Memory.insert m a b) :
    c = (a, b) ∨ c ∈ m := by
  induction m with
  | nil => simpa [Memory.insert] using h
  | cons kb m ih =>
    obtain ⟨k, d⟩ := kb
    simp only [Memory.insert] at h
    split at h
    · simpa using h
    · split at h
      · rcases List.mem_cons.1 h with h | h
        · exact .inl h
        · exact .inr (List.mem_cons_of_mem _ h)
      · rcases List.mem_cons.1 h with rfl | h
        · exact .inr List.mem_cons_self
        · exact (ih h).imp_right (List.mem_cons_of_mem _)

theorem sorted_erase {m : Memory} (a : Nat) (h : m.Pairwise (fun c d => c.1 < d.1)) :
    (Memory.erase m a).Pairwise (fun c d => c.1 < d.1) := by
  induction m with
  | nil => exact h
  | cons kb m ih =>
    obtain ⟨k, d⟩ := kb
    obtain ⟨hk, hm⟩ := List.pairwise_cons.1 h
    simp only [Memory.erase]
    split
    · exact ih hm
    · exact List.pairwise_cons.2 ⟨fun c hc => hk c (mem_erase hc), ih hm⟩

theorem sorted_insert {m : Memory} (a : Nat) (b : Byte) (h : m.Pairwise (fun c d => c.1 < d.1)) :
    (Memory.insert m a b).Pairwise (fun c d => c.1 < d.1) := by
  induction m with
  | nil => simp [Memory.insert]
  | cons kb m ih =>
    obtain ⟨k, d⟩ := kb
    obtain ⟨hk, hm⟩ := List.pairwise_cons.1 h
    simp only [Memory.insert]
    split
    · rename_i hlt
      refine List.pairwise_cons.2 ⟨fun c hc => ?_, h⟩
      rcases List.mem_cons.1 hc with rfl | hc
      · exact hlt
      · exact Nat.lt_trans hlt (hk c hc)
    · split
      · subst_vars; exact List.pairwise_cons.2 ⟨hk, hm⟩
      · rename_i h1 h2
        refine List.pairwise_cons.2 ⟨fun c hc => ?_, ih hm⟩
        rcases mem_insert hc with rfl | hc
        · exact Nat.lt_of_le_of_ne (Nat.le_of_not_lt h1) (Ne.symm h2)
        · exact hk c hc

/-- A write inside the array keeps the canonical form. -/
theorem wf_write {rom : Vector Byte 80} {m : Memory} {a : Nat} (b : Byte) (ha : a < memSize) (h : Memory.wf rom m) :
    Memory.wf rom (Memory.write rom m a b) := by
  unfold Memory.write
  split
  · exact ⟨sorted_erase a h.1, fun c hc => h.2 c (mem_erase hc)⟩
  · rename_i hb
    refine ⟨sorted_insert a b h.1, fun c hc => ?_⟩
    rcases mem_insert hc with rfl | hc
    · exact ⟨ha, hb⟩
    · exact h.2 c hc

/-- Memory with nothing listed is canonical. -/
theorem wf_nil (rom : Vector Byte 80) : Memory.wf rom [] := by simp [Memory.wf]

/-- Consecutive writes inside the array keep the canonical form. -/
theorem wf_writeAll {rom : Vector Byte 80} {m : Memory} {a : Nat} {bs : List Byte} (ha : a + bs.length ≤ memSize)
    (h : Memory.wf rom m) : Memory.wf rom (Memory.writeAll rom m a bs) := by
  induction bs generalizing m a with
  | nil => exact h
  | cons b bs ih =>
    simp only [List.length_cons] at ha
    exact ih (by omega) (wf_write b (by omega) h)

/-- Consecutive writes: the written bytes in order, every other address as before. -/
theorem read_writeAll (rom : Vector Byte 80) (m : Memory) (a c : Nat) (bs : List Byte) :
    Memory.read rom (Memory.writeAll rom m a bs) c =
      if a ≤ c then (bs[c - a]?).getD (Memory.read rom m c) else Memory.read rom m c := by
  induction bs generalizing m a with
  | nil => simp [Memory.writeAll]
  | cons b bs ih =>
    simp only [Memory.writeAll, ih, read_write]
    rcases Nat.lt_trichotomy c a with h | h | h
    · simp [Nat.not_le.2 h, Nat.not_le.2 (Nat.lt_succ_of_lt h), Nat.ne_of_lt h]
    · subst h; simp
    · have e : c - a = (c - (a + 1)) + 1 := by omega
      simp [Nat.le_of_lt h, Nat.succ_le_of_lt h, Nat.ne_of_gt h, e]

end Sys2Proof.Machine
end

