-- ==== Sys2Proof/Laws/State.lean ====
section
/-! SUPPORT. What each update does to each field of State: one lemma a field an update, so that no proof unfolds a
record update. -/

namespace Sys2Proof.Machine

section setReg
variable (s : State) (x : Reg) (b : Byte)

@[simp] theorem setReg_mem : (s.setReg x b).mem = s.mem := rfl
@[simp] theorem setReg_v : (s.setReg x b).v = s.v.set x.toNat b := rfl
@[simp] theorem setReg_i : (s.setReg x b).i = s.i := rfl
@[simp] theorem setReg_pc : (s.setReg x b).pc = s.pc := rfl
@[simp] theorem setReg_sp : (s.setReg x b).sp = s.sp := rfl
@[simp] theorem setReg_stack : (s.setReg x b).stack = s.stack := rfl
@[simp] theorem setReg_dt : (s.setReg x b).dt = s.dt := rfl
@[simp] theorem setReg_st : (s.setReg x b).st = s.st := rfl
@[simp] theorem setReg_fb : (s.setReg x b).fb = s.fb := rfl
@[simp] theorem setReg_dirty : (s.setReg x b).dirty = s.dirty := rfl
@[simp] theorem setReg_mode : (s.setReg x b).mode = s.mode := rfl
@[simp] theorem setReg_acc : (s.setReg x b).acc = s.acc := rfl
@[simp] theorem setReg_status : (s.setReg x b).status = s.status := rfl
@[simp] theorem setReg_params : (s.setReg x b).params = s.params := rfl
@[simp] theorem setReg_inputs : (s.setReg x b).inputs = s.inputs := rfl
@[simp] theorem setReg_cycles : (s.setReg x b).cycles = s.cycles := rfl
@[simp] theorem setReg_out : (s.setReg x b).out = s.out := rfl

end setReg

section setRegs
variable (s : State) (bs : List Byte)

@[simp] theorem setRegs_mem : (s.setRegs bs).mem = s.mem := rfl
@[simp] theorem setRegs_v : (s.setRegs bs).v = Vector.ofFn fun k => (bs[k.val]?).getD s.v[k.val] := rfl
@[simp] theorem setRegs_i : (s.setRegs bs).i = s.i := rfl
@[simp] theorem setRegs_pc : (s.setRegs bs).pc = s.pc := rfl
@[simp] theorem setRegs_sp : (s.setRegs bs).sp = s.sp := rfl
@[simp] theorem setRegs_stack : (s.setRegs bs).stack = s.stack := rfl
@[simp] theorem setRegs_dt : (s.setRegs bs).dt = s.dt := rfl
@[simp] theorem setRegs_st : (s.setRegs bs).st = s.st := rfl
@[simp] theorem setRegs_fb : (s.setRegs bs).fb = s.fb := rfl
@[simp] theorem setRegs_dirty : (s.setRegs bs).dirty = s.dirty := rfl
@[simp] theorem setRegs_mode : (s.setRegs bs).mode = s.mode := rfl
@[simp] theorem setRegs_acc : (s.setRegs bs).acc = s.acc := rfl
@[simp] theorem setRegs_status : (s.setRegs bs).status = s.status := rfl
@[simp] theorem setRegs_params : (s.setRegs bs).params = s.params := rfl
@[simp] theorem setRegs_inputs : (s.setRegs bs).inputs = s.inputs := rfl
@[simp] theorem setRegs_cycles : (s.setRegs bs).cycles = s.cycles := rfl
@[simp] theorem setRegs_out : (s.setRegs bs).out = s.out := rfl

end setRegs

section setI
variable (s : State) (w : Word)

@[simp] theorem setI_mem : (s.setI w).mem = s.mem := rfl
@[simp] theorem setI_v : (s.setI w).v = s.v := rfl
@[simp] theorem setI_i : (s.setI w).i = w := rfl
@[simp] theorem setI_pc : (s.setI w).pc = s.pc := rfl
@[simp] theorem setI_sp : (s.setI w).sp = s.sp := rfl
@[simp] theorem setI_stack : (s.setI w).stack = s.stack := rfl
@[simp] theorem setI_dt : (s.setI w).dt = s.dt := rfl
@[simp] theorem setI_st : (s.setI w).st = s.st := rfl
@[simp] theorem setI_fb : (s.setI w).fb = s.fb := rfl
@[simp] theorem setI_dirty : (s.setI w).dirty = s.dirty := rfl
@[simp] theorem setI_mode : (s.setI w).mode = s.mode := rfl
@[simp] theorem setI_acc : (s.setI w).acc = s.acc := rfl
@[simp] theorem setI_status : (s.setI w).status = s.status := rfl
@[simp] theorem setI_params : (s.setI w).params = s.params := rfl
@[simp] theorem setI_inputs : (s.setI w).inputs = s.inputs := rfl
@[simp] theorem setI_cycles : (s.setI w).cycles = s.cycles := rfl
@[simp] theorem setI_out : (s.setI w).out = s.out := rfl

end setI

section setPc
variable (s : State) (w : Word)

@[simp] theorem setPc_mem : (s.setPc w).mem = s.mem := rfl
@[simp] theorem setPc_v : (s.setPc w).v = s.v := rfl
@[simp] theorem setPc_i : (s.setPc w).i = s.i := rfl
@[simp] theorem setPc_pc : (s.setPc w).pc = w := rfl
@[simp] theorem setPc_sp : (s.setPc w).sp = s.sp := rfl
@[simp] theorem setPc_stack : (s.setPc w).stack = s.stack := rfl
@[simp] theorem setPc_dt : (s.setPc w).dt = s.dt := rfl
@[simp] theorem setPc_st : (s.setPc w).st = s.st := rfl
@[simp] theorem setPc_fb : (s.setPc w).fb = s.fb := rfl
@[simp] theorem setPc_dirty : (s.setPc w).dirty = s.dirty := rfl
@[simp] theorem setPc_mode : (s.setPc w).mode = s.mode := rfl
@[simp] theorem setPc_acc : (s.setPc w).acc = s.acc := rfl
@[simp] theorem setPc_status : (s.setPc w).status = s.status := rfl
@[simp] theorem setPc_params : (s.setPc w).params = s.params := rfl
@[simp] theorem setPc_inputs : (s.setPc w).inputs = s.inputs := rfl
@[simp] theorem setPc_cycles : (s.setPc w).cycles = s.cycles := rfl
@[simp] theorem setPc_out : (s.setPc w).out = s.out := rfl

end setPc

section setDt
variable (s : State) (b : Byte)

@[simp] theorem setDt_mem : (s.setDt b).mem = s.mem := rfl
@[simp] theorem setDt_v : (s.setDt b).v = s.v := rfl
@[simp] theorem setDt_i : (s.setDt b).i = s.i := rfl
@[simp] theorem setDt_pc : (s.setDt b).pc = s.pc := rfl
@[simp] theorem setDt_sp : (s.setDt b).sp = s.sp := rfl
@[simp] theorem setDt_stack : (s.setDt b).stack = s.stack := rfl
@[simp] theorem setDt_dt : (s.setDt b).dt = b := rfl
@[simp] theorem setDt_st : (s.setDt b).st = s.st := rfl
@[simp] theorem setDt_fb : (s.setDt b).fb = s.fb := rfl
@[simp] theorem setDt_dirty : (s.setDt b).dirty = s.dirty := rfl
@[simp] theorem setDt_mode : (s.setDt b).mode = s.mode := rfl
@[simp] theorem setDt_acc : (s.setDt b).acc = s.acc := rfl
@[simp] theorem setDt_status : (s.setDt b).status = s.status := rfl
@[simp] theorem setDt_params : (s.setDt b).params = s.params := rfl
@[simp] theorem setDt_inputs : (s.setDt b).inputs = s.inputs := rfl
@[simp] theorem setDt_cycles : (s.setDt b).cycles = s.cycles := rfl
@[simp] theorem setDt_out : (s.setDt b).out = s.out := rfl

end setDt

section setSt
variable (s : State) (b : Byte)

@[simp] theorem setSt_mem : (s.setSt b).mem = s.mem := rfl
@[simp] theorem setSt_v : (s.setSt b).v = s.v := rfl
@[simp] theorem setSt_i : (s.setSt b).i = s.i := rfl
@[simp] theorem setSt_pc : (s.setSt b).pc = s.pc := rfl
@[simp] theorem setSt_sp : (s.setSt b).sp = s.sp := rfl
@[simp] theorem setSt_stack : (s.setSt b).stack = s.stack := rfl
@[simp] theorem setSt_dt : (s.setSt b).dt = s.dt := rfl
@[simp] theorem setSt_st : (s.setSt b).st = b := rfl
@[simp] theorem setSt_fb : (s.setSt b).fb = s.fb := rfl
@[simp] theorem setSt_dirty : (s.setSt b).dirty = s.dirty := rfl
@[simp] theorem setSt_mode : (s.setSt b).mode = s.mode := rfl
@[simp] theorem setSt_acc : (s.setSt b).acc = s.acc := rfl
@[simp] theorem setSt_status : (s.setSt b).status = s.status := rfl
@[simp] theorem setSt_params : (s.setSt b).params = s.params := rfl
@[simp] theorem setSt_inputs : (s.setSt b).inputs = s.inputs := rfl
@[simp] theorem setSt_cycles : (s.setSt b).cycles = s.cycles := rfl
@[simp] theorem setSt_out : (s.setSt b).out = s.out := rfl

end setSt

section setMode
variable (s : State) (m : Mode)

@[simp] theorem setMode_mem : (s.setMode m).mem = s.mem := rfl
@[simp] theorem setMode_v : (s.setMode m).v = s.v := rfl
@[simp] theorem setMode_i : (s.setMode m).i = s.i := rfl
@[simp] theorem setMode_pc : (s.setMode m).pc = s.pc := rfl
@[simp] theorem setMode_sp : (s.setMode m).sp = s.sp := rfl
@[simp] theorem setMode_stack : (s.setMode m).stack = s.stack := rfl
@[simp] theorem setMode_dt : (s.setMode m).dt = s.dt := rfl
@[simp] theorem setMode_st : (s.setMode m).st = s.st := rfl
@[simp] theorem setMode_fb : (s.setMode m).fb = s.fb := rfl
@[simp] theorem setMode_dirty : (s.setMode m).dirty = s.dirty := rfl
@[simp] theorem setMode_mode : (s.setMode m).mode = m := rfl
@[simp] theorem setMode_acc : (s.setMode m).acc = s.acc := rfl
@[simp] theorem setMode_status : (s.setMode m).status = s.status := rfl
@[simp] theorem setMode_params : (s.setMode m).params = s.params := rfl
@[simp] theorem setMode_inputs : (s.setMode m).inputs = s.inputs := rfl
@[simp] theorem setMode_cycles : (s.setMode m).cycles = s.cycles := rfl
@[simp] theorem setMode_out : (s.setMode m).out = s.out := rfl

end setMode

section setByte
variable (s : State) (a : Nat) (b : Byte)

@[simp] theorem setByte_mem : (s.setByte a b).mem = Memory.write s.params.glyphRom s.mem a b := rfl
@[simp] theorem setByte_v : (s.setByte a b).v = s.v := rfl
@[simp] theorem setByte_i : (s.setByte a b).i = s.i := rfl
@[simp] theorem setByte_pc : (s.setByte a b).pc = s.pc := rfl
@[simp] theorem setByte_sp : (s.setByte a b).sp = s.sp := rfl
@[simp] theorem setByte_stack : (s.setByte a b).stack = s.stack := rfl
@[simp] theorem setByte_dt : (s.setByte a b).dt = s.dt := rfl
@[simp] theorem setByte_st : (s.setByte a b).st = s.st := rfl
@[simp] theorem setByte_fb : (s.setByte a b).fb = s.fb := rfl
@[simp] theorem setByte_dirty : (s.setByte a b).dirty = s.dirty := rfl
@[simp] theorem setByte_mode : (s.setByte a b).mode = s.mode := rfl
@[simp] theorem setByte_acc : (s.setByte a b).acc = s.acc := rfl
@[simp] theorem setByte_status : (s.setByte a b).status = s.status := rfl
@[simp] theorem setByte_params : (s.setByte a b).params = s.params := rfl
@[simp] theorem setByte_inputs : (s.setByte a b).inputs = s.inputs := rfl
@[simp] theorem setByte_cycles : (s.setByte a b).cycles = s.cycles := rfl
@[simp] theorem setByte_out : (s.setByte a b).out = s.out := rfl

end setByte

section nextInput
variable (s : State)

@[simp] theorem nextInput_mem : (s.nextInput).mem = s.mem := rfl
@[simp] theorem nextInput_v : (s.nextInput).v = s.v := rfl
@[simp] theorem nextInput_i : (s.nextInput).i = s.i := rfl
@[simp] theorem nextInput_pc : (s.nextInput).pc = s.pc := rfl
@[simp] theorem nextInput_sp : (s.nextInput).sp = s.sp := rfl
@[simp] theorem nextInput_stack : (s.nextInput).stack = s.stack := rfl
@[simp] theorem nextInput_dt : (s.nextInput).dt = s.dt := rfl
@[simp] theorem nextInput_st : (s.nextInput).st = s.st := rfl
@[simp] theorem nextInput_fb : (s.nextInput).fb = s.fb := rfl
@[simp] theorem nextInput_dirty : (s.nextInput).dirty = s.dirty := rfl
@[simp] theorem nextInput_mode : (s.nextInput).mode = s.mode := rfl
@[simp] theorem nextInput_acc : (s.nextInput).acc = s.acc := rfl
@[simp] theorem nextInput_status : (s.nextInput).status = s.status := rfl
@[simp] theorem nextInput_params : (s.nextInput).params = s.params := rfl
@[simp] theorem nextInput_inputs : (s.nextInput).inputs = s.inputs.tail := rfl
@[simp] theorem nextInput_cycles : (s.nextInput).cycles = s.cycles + 1 := rfl
@[simp] theorem nextInput_out : (s.nextInput).out = s.out := rfl

end nextInput

section clearPorts
variable (s : State)

@[simp] theorem clearPorts_mem : (s.clearPorts).mem = s.mem := rfl
@[simp] theorem clearPorts_v : (s.clearPorts).v = s.v := rfl
@[simp] theorem clearPorts_i : (s.clearPorts).i = s.i := rfl
@[simp] theorem clearPorts_pc : (s.clearPorts).pc = s.pc := rfl
@[simp] theorem clearPorts_sp : (s.clearPorts).sp = s.sp := rfl
@[simp] theorem clearPorts_stack : (s.clearPorts).stack = s.stack := rfl
@[simp] theorem clearPorts_dt : (s.clearPorts).dt = s.dt := rfl
@[simp] theorem clearPorts_st : (s.clearPorts).st = s.st := rfl
@[simp] theorem clearPorts_fb : (s.clearPorts).fb = s.fb := rfl
@[simp] theorem clearPorts_dirty : (s.clearPorts).dirty = s.dirty := rfl
@[simp] theorem clearPorts_mode : (s.clearPorts).mode = s.mode := rfl
@[simp] theorem clearPorts_acc : (s.clearPorts).acc = s.acc := rfl
@[simp] theorem clearPorts_status : (s.clearPorts).status = s.status := rfl
@[simp] theorem clearPorts_params : (s.clearPorts).params = s.params := rfl
@[simp] theorem clearPorts_inputs : (s.clearPorts).inputs = s.inputs := rfl
@[simp] theorem clearPorts_cycles : (s.clearPorts).cycles = s.cycles := rfl
@[simp] theorem clearPorts_out : (s.clearPorts).out = {} := rfl

end clearPorts

section advance
variable (s : State)

@[simp] theorem advance_mem : (s.advance).mem = s.mem := rfl
@[simp] theorem advance_v : (s.advance).v = s.v := rfl
@[simp] theorem advance_i : (s.advance).i = s.i := rfl
@[simp] theorem advance_pc : (s.advance).pc = s.pc + 2 := rfl
@[simp] theorem advance_sp : (s.advance).sp = s.sp := rfl
@[simp] theorem advance_stack : (s.advance).stack = s.stack := rfl
@[simp] theorem advance_dt : (s.advance).dt = s.dt := rfl
@[simp] theorem advance_st : (s.advance).st = s.st := rfl
@[simp] theorem advance_fb : (s.advance).fb = s.fb := rfl
@[simp] theorem advance_dirty : (s.advance).dirty = s.dirty := rfl
@[simp] theorem advance_mode : (s.advance).mode = s.mode := rfl
@[simp] theorem advance_acc : (s.advance).acc = s.acc := rfl
@[simp] theorem advance_status : (s.advance).status = s.status := rfl
@[simp] theorem advance_params : (s.advance).params = s.params := rfl
@[simp] theorem advance_inputs : (s.advance).inputs = s.inputs := rfl
@[simp] theorem advance_cycles : (s.advance).cycles = s.cycles := rfl
@[simp] theorem advance_out : (s.advance).out = s.out := rfl

end advance

section clearScreen
variable (s : State)

@[simp] theorem clearScreen_mem : (clearScreen s).mem = s.mem := rfl
@[simp] theorem clearScreen_v : (clearScreen s).v = s.v := rfl
@[simp] theorem clearScreen_i : (clearScreen s).i = s.i := rfl
@[simp] theorem clearScreen_pc : (clearScreen s).pc = s.pc := rfl
@[simp] theorem clearScreen_sp : (clearScreen s).sp = s.sp := rfl
@[simp] theorem clearScreen_stack : (clearScreen s).stack = s.stack := rfl
@[simp] theorem clearScreen_dt : (clearScreen s).dt = s.dt := rfl
@[simp] theorem clearScreen_st : (clearScreen s).st = s.st := rfl
@[simp] theorem clearScreen_fb : (clearScreen s).fb = 0 := rfl
@[simp] theorem clearScreen_dirty : (clearScreen s).dirty = true := rfl
@[simp] theorem clearScreen_mode : (clearScreen s).mode = s.mode := rfl
@[simp] theorem clearScreen_acc : (clearScreen s).acc = s.acc := rfl
@[simp] theorem clearScreen_status : (clearScreen s).status = s.status := rfl
@[simp] theorem clearScreen_params : (clearScreen s).params = s.params := rfl
@[simp] theorem clearScreen_inputs : (clearScreen s).inputs = s.inputs := rfl
@[simp] theorem clearScreen_cycles : (clearScreen s).cycles = s.cycles := rfl
@[simp] theorem clearScreen_out : (clearScreen s).out = s.out := rfl

end clearScreen

section enterFault
variable (s : State) (r : FaultRecord)

@[simp] theorem enterFault_mem : (enterFault r s).mem = s.mem := rfl
@[simp] theorem enterFault_v : (enterFault r s).v = s.v := rfl
@[simp] theorem enterFault_i : (enterFault r s).i = s.i := rfl
@[simp] theorem enterFault_pc : (enterFault r s).pc = s.pc := rfl
@[simp] theorem enterFault_sp : (enterFault r s).sp = s.sp := rfl
@[simp] theorem enterFault_stack : (enterFault r s).stack = s.stack := rfl
@[simp] theorem enterFault_dt : (enterFault r s).dt = s.dt := rfl
@[simp] theorem enterFault_st : (enterFault r s).st = s.st := rfl
@[simp] theorem enterFault_fb : (enterFault r s).fb = s.fb := rfl
@[simp] theorem enterFault_dirty : (enterFault r s).dirty = s.dirty := rfl
@[simp] theorem enterFault_mode : (enterFault r s).mode = s.mode := rfl
@[simp] theorem enterFault_acc : (enterFault r s).acc = s.acc := rfl
@[simp] theorem enterFault_status : (enterFault r s).status = .faulted r := rfl
@[simp] theorem enterFault_params : (enterFault r s).params = s.params := rfl
@[simp] theorem enterFault_inputs : (enterFault r s).inputs = s.inputs := rfl
@[simp] theorem enterFault_cycles : (enterFault r s).cycles = s.cycles := rfl
@[simp] theorem enterFault_out : (enterFault r s).out = { fault := some r } := rfl

end enterFault

section takeFault
variable (s : State) (a : Word) (op : Option Word) (e : Raise)

@[simp] theorem takeFault_mem : (takeFault a op e s).mem = s.mem := rfl
@[simp] theorem takeFault_v : (takeFault a op e s).v = s.v := rfl
@[simp] theorem takeFault_i : (takeFault a op e s).i = s.i := rfl
@[simp] theorem takeFault_pc : (takeFault a op e s).pc = a := rfl
@[simp] theorem takeFault_sp : (takeFault a op e s).sp = s.sp := rfl
@[simp] theorem takeFault_stack : (takeFault a op e s).stack = s.stack := rfl
@[simp] theorem takeFault_dt : (takeFault a op e s).dt = s.dt := rfl
@[simp] theorem takeFault_st : (takeFault a op e s).st = s.st := rfl
@[simp] theorem takeFault_fb : (takeFault a op e s).fb = s.fb := rfl
@[simp] theorem takeFault_dirty : (takeFault a op e s).dirty = s.dirty := rfl
@[simp] theorem takeFault_mode : (takeFault a op e s).mode = s.mode := rfl
@[simp] theorem takeFault_acc : (takeFault a op e s).acc = s.acc := rfl
@[simp] theorem takeFault_status : (takeFault a op e s).status = .faulted { cause := e.cause, pc := some a, opcode := op, info := e.info } := rfl
@[simp] theorem takeFault_params : (takeFault a op e s).params = s.params := rfl
@[simp] theorem takeFault_inputs : (takeFault a op e s).inputs = s.inputs := rfl
@[simp] theorem takeFault_cycles : (takeFault a op e s).cycles = s.cycles := rfl
@[simp] theorem takeFault_out : (takeFault a op e s).out = { fault := some { cause := e.cause, pc := some a, opcode := op, info := e.info } } := rfl

end takeFault

section writeFlagged
variable (s : State) (x : Reg) (r : Flagged)

@[simp] theorem writeFlagged_mem : (writeFlagged x r s).mem = s.mem := rfl
@[simp] theorem writeFlagged_i : (writeFlagged x r s).i = s.i := rfl
@[simp] theorem writeFlagged_pc : (writeFlagged x r s).pc = s.pc := rfl
@[simp] theorem writeFlagged_sp : (writeFlagged x r s).sp = s.sp := rfl
@[simp] theorem writeFlagged_stack : (writeFlagged x r s).stack = s.stack := rfl
@[simp] theorem writeFlagged_dt : (writeFlagged x r s).dt = s.dt := rfl
@[simp] theorem writeFlagged_st : (writeFlagged x r s).st = s.st := rfl
@[simp] theorem writeFlagged_fb : (writeFlagged x r s).fb = s.fb := rfl
@[simp] theorem writeFlagged_dirty : (writeFlagged x r s).dirty = s.dirty := rfl
@[simp] theorem writeFlagged_mode : (writeFlagged x r s).mode = s.mode := rfl
@[simp] theorem writeFlagged_acc : (writeFlagged x r s).acc = s.acc := rfl
@[simp] theorem writeFlagged_status : (writeFlagged x r s).status = s.status := rfl
@[simp] theorem writeFlagged_params : (writeFlagged x r s).params = s.params := rfl
@[simp] theorem writeFlagged_inputs : (writeFlagged x r s).inputs = s.inputs := rfl
@[simp] theorem writeFlagged_cycles : (writeFlagged x r s).cycles = s.cycles := rfl
@[simp] theorem writeFlagged_out : (writeFlagged x r s).out = s.out := rfl

end writeFlagged

section drawSprite
variable (s : State) (cx cy : Nat) (bs : List Byte)

@[simp] theorem drawSprite_mem : (drawSprite cx cy bs s).mem = s.mem := rfl
@[simp] theorem drawSprite_i : (drawSprite cx cy bs s).i = s.i := rfl
@[simp] theorem drawSprite_pc : (drawSprite cx cy bs s).pc = s.pc := rfl
@[simp] theorem drawSprite_sp : (drawSprite cx cy bs s).sp = s.sp := rfl
@[simp] theorem drawSprite_stack : (drawSprite cx cy bs s).stack = s.stack := rfl
@[simp] theorem drawSprite_dt : (drawSprite cx cy bs s).dt = s.dt := rfl
@[simp] theorem drawSprite_st : (drawSprite cx cy bs s).st = s.st := rfl
@[simp] theorem drawSprite_fb : (drawSprite cx cy bs s).fb = (drawRows cx cy bs { fb := s.fb, hit := false }).fb := rfl
@[simp] theorem drawSprite_dirty : (drawSprite cx cy bs s).dirty = true := rfl
@[simp] theorem drawSprite_mode : (drawSprite cx cy bs s).mode = s.mode := rfl
@[simp] theorem drawSprite_acc : (drawSprite cx cy bs s).acc = s.acc := rfl
@[simp] theorem drawSprite_status : (drawSprite cx cy bs s).status = s.status := rfl
@[simp] theorem drawSprite_params : (drawSprite cx cy bs s).params = s.params := rfl
@[simp] theorem drawSprite_inputs : (drawSprite cx cy bs s).inputs = s.inputs := rfl
@[simp] theorem drawSprite_cycles : (drawSprite cx cy bs s).cycles = s.cycles := rfl
@[simp] theorem drawSprite_out : (drawSprite cx cy bs s).out = s.out := rfl

end drawSprite

section skipIf
variable (s : State) (taken : Bool)

@[simp] theorem skipIf_mem : (skipIf taken s).mem = s.mem := by unfold skipIf; split <;> rfl
@[simp] theorem skipIf_v : (skipIf taken s).v = s.v := by unfold skipIf; split <;> rfl
@[simp] theorem skipIf_i : (skipIf taken s).i = s.i := by unfold skipIf; split <;> rfl
@[simp] theorem skipIf_pc : (skipIf taken s).pc = if taken then s.pc + 2 else s.pc := by unfold skipIf; split <;> rfl
@[simp] theorem skipIf_sp : (skipIf taken s).sp = s.sp := by unfold skipIf; split <;> rfl
@[simp] theorem skipIf_stack : (skipIf taken s).stack = s.stack := by unfold skipIf; split <;> rfl
@[simp] theorem skipIf_dt : (skipIf taken s).dt = s.dt := by unfold skipIf; split <;> rfl
@[simp] theorem skipIf_st : (skipIf taken s).st = s.st := by unfold skipIf; split <;> rfl
@[simp] theorem skipIf_fb : (skipIf taken s).fb = s.fb := by unfold skipIf; split <;> rfl
@[simp] theorem skipIf_dirty : (skipIf taken s).dirty = s.dirty := by unfold skipIf; split <;> rfl
@[simp] theorem skipIf_mode : (skipIf taken s).mode = s.mode := by unfold skipIf; split <;> rfl
@[simp] theorem skipIf_acc : (skipIf taken s).acc = s.acc := by unfold skipIf; split <;> rfl
@[simp] theorem skipIf_status : (skipIf taken s).status = s.status := by unfold skipIf; split <;> rfl
@[simp] theorem skipIf_params : (skipIf taken s).params = s.params := by unfold skipIf; split <;> rfl
@[simp] theorem skipIf_inputs : (skipIf taken s).inputs = s.inputs := by unfold skipIf; split <;> rfl
@[simp] theorem skipIf_cycles : (skipIf taken s).cycles = s.cycles := by unfold skipIf; split <;> rfl
@[simp] theorem skipIf_out : (skipIf taken s).out = s.out := by unfold skipIf; split <;> rfl

end skipIf

section pushDisplay
variable (s : State)

@[simp] theorem pushDisplay_mem : (pushDisplay s).mem = s.mem := by unfold pushDisplay; split <;> rfl
@[simp] theorem pushDisplay_v : (pushDisplay s).v = s.v := by unfold pushDisplay; split <;> rfl
@[simp] theorem pushDisplay_i : (pushDisplay s).i = s.i := by unfold pushDisplay; split <;> rfl
@[simp] theorem pushDisplay_pc : (pushDisplay s).pc = s.pc := by unfold pushDisplay; split <;> rfl
@[simp] theorem pushDisplay_sp : (pushDisplay s).sp = s.sp := by unfold pushDisplay; split <;> rfl
@[simp] theorem pushDisplay_stack : (pushDisplay s).stack = s.stack := by unfold pushDisplay; split <;> rfl
@[simp] theorem pushDisplay_dt : (pushDisplay s).dt = s.dt := by unfold pushDisplay; split <;> rfl
@[simp] theorem pushDisplay_st : (pushDisplay s).st = s.st := by unfold pushDisplay; split <;> rfl
@[simp] theorem pushDisplay_fb : (pushDisplay s).fb = s.fb := by unfold pushDisplay; split <;> rfl
@[simp] theorem pushDisplay_dirty : (pushDisplay s).dirty = false := by unfold pushDisplay; split <;> simp_all
@[simp] theorem pushDisplay_mode : (pushDisplay s).mode = s.mode := by unfold pushDisplay; split <;> rfl
@[simp] theorem pushDisplay_acc : (pushDisplay s).acc = s.acc := by unfold pushDisplay; split <;> rfl
@[simp] theorem pushDisplay_status : (pushDisplay s).status = s.status := by unfold pushDisplay; split <;> rfl
@[simp] theorem pushDisplay_params : (pushDisplay s).params = s.params := by unfold pushDisplay; split <;> rfl
@[simp] theorem pushDisplay_inputs : (pushDisplay s).inputs = s.inputs := by unfold pushDisplay; split <;> rfl
@[simp] theorem pushDisplay_cycles : (pushDisplay s).cycles = s.cycles := by unfold pushDisplay; split <;> rfl
@[simp] theorem pushDisplay_out : (pushDisplay s).out = if s.dirty then { s.out with refresh := some s.fb } else s.out := by unfold pushDisplay; split <;> rfl

end pushDisplay

section timerStep
variable (s : State)

@[simp] theorem timerStep_mem : (timerStep s).mem = s.mem := by unfold timerStep; dsimp only; split <;> rfl
@[simp] theorem timerStep_v : (timerStep s).v = s.v := by unfold timerStep; dsimp only; split <;> rfl
@[simp] theorem timerStep_i : (timerStep s).i = s.i := by unfold timerStep; dsimp only; split <;> rfl
@[simp] theorem timerStep_pc : (timerStep s).pc = s.pc := by unfold timerStep; dsimp only; split <;> rfl
@[simp] theorem timerStep_sp : (timerStep s).sp = s.sp := by unfold timerStep; dsimp only; split <;> rfl
@[simp] theorem timerStep_stack : (timerStep s).stack = s.stack := by unfold timerStep; dsimp only; split <;> rfl
@[simp] theorem timerStep_dt : (timerStep s).dt = if timerFires (s.acc + s.input.tickMs) then countDown s.dt else s.dt := by unfold timerStep; dsimp only; split <;> rfl
@[simp] theorem timerStep_st : (timerStep s).st = if timerFires (s.acc + s.input.tickMs) then countDown s.st else s.st := by unfold timerStep; dsimp only; split <;> rfl
@[simp] theorem timerStep_fb : (timerStep s).fb = s.fb := by unfold timerStep; dsimp only; split <;> rfl
@[simp] theorem timerStep_dirty : (timerStep s).dirty = s.dirty := by unfold timerStep; dsimp only; split <;> rfl
@[simp] theorem timerStep_mode : (timerStep s).mode = s.mode := by unfold timerStep; dsimp only; split <;> rfl
@[simp] theorem timerStep_acc : (timerStep s).acc = if timerFires (s.acc + s.input.tickMs) then 0 else s.acc + s.input.tickMs := by unfold timerStep; dsimp only; split <;> rfl
@[simp] theorem timerStep_status : (timerStep s).status = s.status := by unfold timerStep; dsimp only; split <;> rfl
@[simp] theorem timerStep_params : (timerStep s).params = s.params := by unfold timerStep; dsimp only; split <;> rfl
@[simp] theorem timerStep_inputs : (timerStep s).inputs = s.inputs := by unfold timerStep; dsimp only; split <;> rfl
@[simp] theorem timerStep_cycles : (timerStep s).cycles = s.cycles := by unfold timerStep; dsimp only; split <;> rfl
@[simp] theorem timerStep_out : (timerStep s).out = if timerFires (s.acc + s.input.tickMs) then { s.out with beep := s.out.beep || (s.st != 0 && countDown s.st == 0) } else s.out := by unfold timerStep; dsimp only; split <;> rfl

end timerStep

section pollKey
variable (s : State) (t : Reg)

@[simp] theorem pollKey_mem : (pollKey t s).mem = s.mem := by unfold pollKey; split <;> rfl
@[simp] theorem pollKey_i : (pollKey t s).i = s.i := by unfold pollKey; split <;> rfl
@[simp] theorem pollKey_pc : (pollKey t s).pc = s.pc := by unfold pollKey; split <;> rfl
@[simp] theorem pollKey_sp : (pollKey t s).sp = s.sp := by unfold pollKey; split <;> rfl
@[simp] theorem pollKey_stack : (pollKey t s).stack = s.stack := by unfold pollKey; split <;> rfl
@[simp] theorem pollKey_dt : (pollKey t s).dt = s.dt := by unfold pollKey; split <;> rfl
@[simp] theorem pollKey_st : (pollKey t s).st = s.st := by unfold pollKey; split <;> rfl
@[simp] theorem pollKey_fb : (pollKey t s).fb = s.fb := by unfold pollKey; split <;> rfl
@[simp] theorem pollKey_dirty : (pollKey t s).dirty = s.dirty := by unfold pollKey; split <;> rfl
@[simp] theorem pollKey_acc : (pollKey t s).acc = s.acc := by unfold pollKey; split <;> rfl
@[simp] theorem pollKey_status : (pollKey t s).status = s.status := by unfold pollKey; split <;> rfl
@[simp] theorem pollKey_params : (pollKey t s).params = s.params := by unfold pollKey; split <;> rfl
@[simp] theorem pollKey_inputs : (pollKey t s).inputs = s.inputs := by unfold pollKey; split <;> rfl
@[simp] theorem pollKey_cycles : (pollKey t s).cycles = s.cycles := by unfold pollKey; split <;> rfl
@[simp] theorem pollKey_out : (pollKey t s).out = s.out := by unfold pollKey; split <;> rfl

end pollKey

/-! The port values are read off `inputs` and `cycles` alone. -/

/-- Two states with the same queue and draw count read the same port values. -/
theorem input_congr {s t : State} (hi : t.inputs = s.inputs) (hc : t.cycles = s.cycles) : t.input = s.input := by
  unfold State.input; rw [hi, hc]

@[simp] theorem setReg_input (s : State) (x : Reg) (b : Byte) : (s.setReg x b).input = s.input := input_congr (by simp) (by simp)
@[simp] theorem setRegs_input (s : State) (bs : List Byte) : (s.setRegs bs).input = s.input := input_congr (by simp) (by simp)
@[simp] theorem setI_input (s : State) (w : Word) : (s.setI w).input = s.input := input_congr (by simp) (by simp)
@[simp] theorem setPc_input (s : State) (w : Word) : (s.setPc w).input = s.input := input_congr (by simp) (by simp)
@[simp] theorem setDt_input (s : State) (b : Byte) : (s.setDt b).input = s.input := input_congr (by simp) (by simp)
@[simp] theorem setSt_input (s : State) (b : Byte) : (s.setSt b).input = s.input := input_congr (by simp) (by simp)
@[simp] theorem setMode_input (s : State) (m : Mode) : (s.setMode m).input = s.input := input_congr (by simp) (by simp)
@[simp] theorem setByte_input (s : State) (a : Nat) (b : Byte) : (s.setByte a b).input = s.input := input_congr (by simp) (by simp)
@[simp] theorem clearPorts_input (s : State) : (s.clearPorts).input = s.input := input_congr (by simp) (by simp)
@[simp] theorem advance_input (s : State) : (s.advance).input = s.input := input_congr (by simp) (by simp)
@[simp] theorem clearScreen_input (s : State) : (clearScreen s).input = s.input := input_congr (by simp) (by simp)
@[simp] theorem enterFault_input (s : State) (r : FaultRecord) : (enterFault r s).input = s.input := input_congr (by simp) (by simp)
@[simp] theorem takeFault_input (s : State) (a : Word) (op : Option Word) (e : Raise) : (takeFault a op e s).input = s.input := input_congr (by simp) (by simp)
@[simp] theorem writeFlagged_input (s : State) (x : Reg) (r : Flagged) : (writeFlagged x r s).input = s.input := input_congr (by simp) (by simp)
@[simp] theorem drawSprite_input (s : State) (cx cy : Nat) (bs : List Byte) : (drawSprite cx cy bs s).input = s.input := input_congr (by simp) (by simp)
@[simp] theorem skipIf_input (s : State) (taken : Bool) : (skipIf taken s).input = s.input := input_congr (by simp) (by simp)
@[simp] theorem pushDisplay_input (s : State) : (pushDisplay s).input = s.input := input_congr (by simp) (by simp)
@[simp] theorem timerStep_input (s : State) : (timerStep s).input = s.input := input_congr (by simp) (by simp)
@[simp] theorem pollKey_input (s : State) (t : Reg) : (pollKey t s).input = s.input := input_congr (by simp) (by simp)

/-! A cell of memory is read through `mem` and `params` alone. -/

/-- Two states with the same memory and parameters read the same bytes. -/
theorem byteAt_congr {s t : State} (hm : t.mem = s.mem) (hp : t.params = s.params) (a : Nat) :
    t.byteAt a = s.byteAt a := by
  unfold State.byteAt; rw [hm, hp]

@[simp] theorem setReg_byteAt (s : State) (x : Reg) (b : Byte) (a' : Nat) : (s.setReg x b).byteAt a' = s.byteAt a' := byteAt_congr (by simp) (by simp) a'
@[simp] theorem setRegs_byteAt (s : State) (bs : List Byte) (a' : Nat) : (s.setRegs bs).byteAt a' = s.byteAt a' := byteAt_congr (by simp) (by simp) a'
@[simp] theorem setI_byteAt (s : State) (w : Word) (a' : Nat) : (s.setI w).byteAt a' = s.byteAt a' := byteAt_congr (by simp) (by simp) a'
@[simp] theorem setPc_byteAt (s : State) (w : Word) (a' : Nat) : (s.setPc w).byteAt a' = s.byteAt a' := byteAt_congr (by simp) (by simp) a'
@[simp] theorem setDt_byteAt (s : State) (b : Byte) (a' : Nat) : (s.setDt b).byteAt a' = s.byteAt a' := byteAt_congr (by simp) (by simp) a'
@[simp] theorem setSt_byteAt (s : State) (b : Byte) (a' : Nat) : (s.setSt b).byteAt a' = s.byteAt a' := byteAt_congr (by simp) (by simp) a'
@[simp] theorem setMode_byteAt (s : State) (m : Mode) (a' : Nat) : (s.setMode m).byteAt a' = s.byteAt a' := byteAt_congr (by simp) (by simp) a'
@[simp] theorem nextInput_byteAt (s : State) (a' : Nat) : (s.nextInput).byteAt a' = s.byteAt a' := byteAt_congr (by simp) (by simp) a'
@[simp] theorem clearPorts_byteAt (s : State) (a' : Nat) : (s.clearPorts).byteAt a' = s.byteAt a' := byteAt_congr (by simp) (by simp) a'
@[simp] theorem advance_byteAt (s : State) (a' : Nat) : (s.advance).byteAt a' = s.byteAt a' := byteAt_congr (by simp) (by simp) a'
@[simp] theorem clearScreen_byteAt (s : State) (a' : Nat) : (clearScreen s).byteAt a' = s.byteAt a' := byteAt_congr (by simp) (by simp) a'
@[simp] theorem enterFault_byteAt (s : State) (r : FaultRecord) (a' : Nat) : (enterFault r s).byteAt a' = s.byteAt a' := byteAt_congr (by simp) (by simp) a'
@[simp] theorem takeFault_byteAt (s : State) (a : Word) (op : Option Word) (e : Raise) (a' : Nat) : (takeFault a op e s).byteAt a' = s.byteAt a' := byteAt_congr (by simp) (by simp) a'
@[simp] theorem writeFlagged_byteAt (s : State) (x : Reg) (r : Flagged) (a' : Nat) : (writeFlagged x r s).byteAt a' = s.byteAt a' := byteAt_congr (by simp) (by simp) a'
@[simp] theorem drawSprite_byteAt (s : State) (cx cy : Nat) (bs : List Byte) (a' : Nat) : (drawSprite cx cy bs s).byteAt a' = s.byteAt a' := byteAt_congr (by simp) (by simp) a'
@[simp] theorem skipIf_byteAt (s : State) (taken : Bool) (a' : Nat) : (skipIf taken s).byteAt a' = s.byteAt a' := byteAt_congr (by simp) (by simp) a'
@[simp] theorem pushDisplay_byteAt (s : State) (a' : Nat) : (pushDisplay s).byteAt a' = s.byteAt a' := byteAt_congr (by simp) (by simp) a'
@[simp] theorem timerStep_byteAt (s : State) (a' : Nat) : (timerStep s).byteAt a' = s.byteAt a' := byteAt_congr (by simp) (by simp) a'
@[simp] theorem pollKey_byteAt (s : State) (t : Reg) (a' : Nat) : (pollKey t s).byteAt a' = s.byteAt a' := byteAt_congr (by simp) (by simp) a'

/-! A register is read through `v` alone. -/

/-- Two states with the same register file read the same registers. -/
theorem reg_congr {s t : State} (hv : t.v = s.v) (r : Reg) : t.reg r = s.reg r := by
  unfold State.reg; rw [hv]

@[simp] theorem setI_reg (s : State) (w : Word) (q : Reg) : (s.setI w).reg q = s.reg q := reg_congr (by simp) q
@[simp] theorem setPc_reg (s : State) (w : Word) (q : Reg) : (s.setPc w).reg q = s.reg q := reg_congr (by simp) q
@[simp] theorem setDt_reg (s : State) (b : Byte) (q : Reg) : (s.setDt b).reg q = s.reg q := reg_congr (by simp) q
@[simp] theorem setSt_reg (s : State) (b : Byte) (q : Reg) : (s.setSt b).reg q = s.reg q := reg_congr (by simp) q
@[simp] theorem setMode_reg (s : State) (m : Mode) (q : Reg) : (s.setMode m).reg q = s.reg q := reg_congr (by simp) q
@[simp] theorem setByte_reg (s : State) (a : Nat) (b : Byte) (q : Reg) : (s.setByte a b).reg q = s.reg q := reg_congr (by simp) q
@[simp] theorem nextInput_reg (s : State) (q : Reg) : (s.nextInput).reg q = s.reg q := reg_congr (by simp) q
@[simp] theorem clearPorts_reg (s : State) (q : Reg) : (s.clearPorts).reg q = s.reg q := reg_congr (by simp) q
@[simp] theorem advance_reg (s : State) (q : Reg) : (s.advance).reg q = s.reg q := reg_congr (by simp) q
@[simp] theorem clearScreen_reg (s : State) (q : Reg) : (clearScreen s).reg q = s.reg q := reg_congr (by simp) q
@[simp] theorem enterFault_reg (s : State) (r : FaultRecord) (q : Reg) : (enterFault r s).reg q = s.reg q := reg_congr (by simp) q
@[simp] theorem takeFault_reg (s : State) (a : Word) (op : Option Word) (e : Raise) (q : Reg) : (takeFault a op e s).reg q = s.reg q := reg_congr (by simp) q
@[simp] theorem skipIf_reg (s : State) (taken : Bool) (q : Reg) : (skipIf taken s).reg q = s.reg q := reg_congr (by simp) q
@[simp] theorem pushDisplay_reg (s : State) (q : Reg) : (pushDisplay s).reg q = s.reg q := reg_congr (by simp) q
@[simp] theorem timerStep_reg (s : State) (q : Reg) : (timerStep s).reg q = s.reg q := reg_congr (by simp) q

/-- A written register reads as written, every other as before (R21). -/
theorem reg_setReg (s : State) (x y : Reg) (b : Byte) : (s.setReg x b).reg y = if y = x then b else s.reg y := by
  unfold State.reg State.setReg
  by_cases h : y = x
  · subst h; simp
  · have h' : x.toNat ≠ y.toNat := fun e => h (BitVec.eq_of_toNat_eq e.symm)
    simp [h, Vector.getElem_set_ne, h']

@[simp] theorem reg_setReg_same (s : State) (x : Reg) (b : Byte) : (s.setReg x b).reg x = b := by
  simp [reg_setReg]

theorem reg_setReg_ne (s : State) {x y : Reg} (b : Byte) (h : y ≠ x) : (s.setReg x b).reg y = s.reg y := by
  simp [reg_setReg, h]

/-- VF ends as the flag, whatever the destination (R170). -/
@[simp] theorem writeFlagged_reg_vf (s : State) (x : Reg) (r : Flagged) :
    (writeFlagged x r s).reg vf = flagByte r.flag := reg_setReg_same _ _ _

/-- A destination other than VF holds the result (R170). -/
theorem writeFlagged_reg_dest (s : State) {x : Reg} (r : Flagged) (h : x ≠ vf) :
    (writeFlagged x r s).reg x = r.value := by
  unfold writeFlagged; rw [reg_setReg_ne _ _ h, reg_setReg_same]

/-- A register that is neither the destination nor VF is unchanged (R170). -/
theorem writeFlagged_reg_other (s : State) {x q : Reg} (r : Flagged) (hx : q ≠ x) (hf : q ≠ vf) :
    (writeFlagged x r s).reg q = s.reg q := by
  unfold writeFlagged; rw [reg_setReg_ne _ _ hf, reg_setReg_ne _ _ hx]

/-- A draw writes VF and no other register (R262). -/
@[simp] theorem drawSprite_reg_vf (s : State) (cx cy : Nat) (bs : List Byte) :
    (drawSprite cx cy bs s).reg vf = flagByte (drawRows cx cy bs { fb := s.fb, hit := false }).hit :=
  reg_setReg_same s vf _

theorem drawSprite_reg_other (s : State) (cx cy : Nat) (bs : List Byte) {q : Reg} (h : q ≠ vf) :
    (drawSprite cx cy bs s).reg q = s.reg q :=
  reg_setReg_ne s _ h

/-- A loaded register holds its byte; one past the bytes is unchanged (R215). -/
theorem reg_setRegs (s : State) (bs : List Byte) (q : Reg) :
    (s.setRegs bs).reg q = (bs[q.toNat]?).getD (s.reg q) := by
  simp [State.reg, State.setRegs]

end Sys2Proof.Machine
end

