-- ==== Sys2Proof/Laws/Ops.lean ====
section
/-! SUPPORT. One lemma for each shared operation, that says all it can do; callers cite it and never unfold it. -/

namespace Sys2Proof.Machine

@[simp] theorem setByte_byteAt (s : State) (a c : Nat) (b : Byte) :
    (s.setByte a b).byteAt c = if c = a then b else s.byteAt c := read_write _ _ _ _ _

/-- A byte read: inside the array its contents, outside it `DataOutOfBounds` with the address (R64). -/
theorem memRead_eq (s : State) (a : Nat) :
    memRead s a = if a < 4096 then .ok (s.byteAt a) else .error ⟨.dataOutOfBounds, some a⟩ := rfl

/-- A byte written: inside the array its cell, outside it `DataOutOfBounds` with the address (R65). -/
theorem memWrite_eq (a : Nat) (b : Byte) (s : State) :
    memWrite a b s = if a < 4096 then .ok (s.setByte a b) else .error ⟨.dataOutOfBounds, some a⟩ := rfl

/-- The fault of a transfer that starts at `a` and leaves the array: the lowest bad address (R317, R320). -/
def boundsRaise (a : Nat) : Raise := ⟨.dataOutOfBounds, some (max a 4096)⟩

/-- A transfer of `n` bytes into registers: all of it inside the array, or none (R66, R319). -/
theorem loadBytes_eq (s : State) (a n : Nat) :
    loadBytes s a n =
      if n = 0 ∨ a + n ≤ 4096 then .ok ((List.range n).map fun k => s.byteAt (a + k)) else .error (boundsRaise a) := by
  induction n generalizing a with
  | zero => simp [loadBytes]
  | succ n ih =>
    simp only [loadBytes, memRead_eq, ih]
    by_cases ha : a < 4096
    · by_cases hn : n = 0 ∨ a + 1 + n ≤ 4096
      · have h1 : n + 1 = 0 ∨ a + (n + 1) ≤ 4096 := by omega
        rw [if_pos ha, if_pos hn, if_pos h1]
        simp [List.range_succ_eq_map, Nat.add_assoc, Nat.add_comm 1, Function.comp_def]
      · have h1 : ¬ (a + (n + 1) ≤ 4096) := by omega
        simp only [not_or] at hn
        simp only [ha, if_true, hn, Nat.add_eq_zero_iff, h1, or_self, if_false, boundsRaise]
        simp; omega
    · have h1 : ¬ (a + (n + 1) ≤ 4096) := by omega
      simp only [ha, if_false, h1, Nat.succ_ne_zero, or_self, boundsRaise]
      simp; omega

/-- The state after bytes are stored from `a` up. -/
def State.setBytes (a : Nat) (bs : List Byte) (s : State) : State :=
  { s with mem := Memory.writeAll s.params.glyphRom s.mem a bs }

theorem setBytes_byteAt (s : State) (a c : Nat) (bs : List Byte) :
    (s.setBytes a bs).byteAt c = if a ≤ c then (bs[c - a]?).getD (s.byteAt c) else s.byteAt c :=
  read_writeAll _ _ _ _ _

/-- Every store keeps memory canonical. -/
theorem wf_setByte {s : State} {a : Nat} (b : Byte) (ha : a < memSize) (h : Memory.wf s.params.glyphRom s.mem) :
    Memory.wf (s.setByte a b).params.glyphRom (s.setByte a b).mem := wf_write b ha h

theorem wf_setBytes {s : State} {a : Nat} {bs : List Byte} (hb : a + bs.length ≤ memSize)
    (h : Memory.wf s.params.glyphRom s.mem) :
    Memory.wf (s.setBytes a bs).params.glyphRom (s.setBytes a bs).mem := wf_writeAll hb h

/-- Memory after reset is canonical. -/
theorem wf_resetWith (p : Params) : Memory.wf (State.resetWith p).params.glyphRom (State.resetWith p).mem :=
  wf_nil p.glyphRom

/-- A transfer of bytes into memory: all of it inside the array, or none (R66, R319). -/
theorem storeBytes_eq (a : Nat) (bs : List Byte) (s : State) :
    storeBytes a bs s =
      if bs = [] ∨ a + bs.length ≤ 4096 then .ok (s.setBytes a bs) else .error (boundsRaise a) := by
  induction bs generalizing a s with
  | nil => simp [storeBytes, State.setBytes, Memory.writeAll]
  | cons b bs ih =>
    simp only [storeBytes, memWrite_eq, List.length_cons]
    by_cases ha : a < 4096
    · simp only [ha, if_true, ih]
      by_cases hn : bs = [] ∨ a + 1 + bs.length ≤ 4096
      · have : a + (bs.length + 1) ≤ 4096 := by
          rcases hn with rfl | hn
          · simpa using ha
          · omega
        simp [hn, this, State.setBytes, Memory.writeAll, State.setByte]
      · have h1 : ¬ (a + (bs.length + 1) ≤ 4096) := by simp only [not_or] at hn; omega
        simp only [hn, if_false, h1, reduceCtorEq, or_self, boundsRaise]
        simp; omega
    · have h1 : ¬ (a + (bs.length + 1) ≤ 4096) := by omega
      simp only [ha, if_false, h1, reduceCtorEq, or_self, boundsRaise]
      simp; omega

/-- The push: refused at depth 16, and otherwise the return address at SP, SP one higher, PC the target (R133). -/
theorem pushCall_cases (target : Word) (s : State) :
    (s.sp.val = 16 ∧ pushCall target s = .error ⟨.stackOverflow, none⟩) ∨
    (∃ h : s.sp.val < 16, pushCall target s =
      .ok { s with stack := s.stack.set s.sp.val s.pc, sp := ⟨s.sp.val + 1, Nat.succ_lt_succ h⟩, pc := target }) := by
  unfold pushCall
  by_cases h : s.sp.val < 16
  · exact .inr ⟨h, dif_pos h⟩
  · exact .inl ⟨by omega, dif_neg h⟩

/-- The pop: refused at depth 0, and otherwise SP one lower and PC the popped cell (R130). -/
theorem popReturn_cases (s : State) :
    (s.sp.val = 0 ∧ popReturn s = .error ⟨.stackUnderflow, none⟩) ∨
    (∃ h : 0 < s.sp.val, popReturn s =
      .ok { s with sp := ⟨s.sp.val - 1, by omega⟩, pc := s.stack[s.sp.val - 1]'(by omega) }) := by
  unfold popReturn
  by_cases h : 0 < s.sp.val
  · exact .inr ⟨h, dif_pos h⟩
  · exact .inl ⟨by omega, dif_neg h⟩

/-- The operand invariant: the result passes through unless an operand is VF (R171). -/
theorem guardOperands_eq (x y : Reg) (t : State) :
    guardOperands x y t = if x = vf ∨ y = vf then .error ⟨.operandInvariant, none⟩ else .ok t := rfl

/-- The sum with I: exact, or `IndexOverflow` (R211). -/
theorem indexSum_eq (x : Reg) (s : State) :
    indexSum x s = if s.i.toNat + (s.reg x).toNat > 65535 then .error ⟨.indexOverflow, none⟩
      else .ok (BitVec.ofNat 16 (s.i.toNat + (s.reg x).toNat)) := rfl

@[simp] theorem commit_ok (ins : Instr) (s t : State) : commit ins s (.ok t) = .next t := rfl

@[simp] theorem commit_error (ins : Instr) (s : State) (e : Raise) :
    commit ins s (.error e) = .next (takeFault s.fetchedFrom (some (encode ins)) e s) := rfl

/-- An instruction that commits answers a next state: its result, or the fault it raised taken in the state it ran in. -/
theorem commit_cases (ins : Instr) (s : State) (r : Except Raise State) :
    (∃ t, r = .ok t ∧ commit ins s r = .next t) ∨
    (∃ e, r = .error e ∧ commit ins s r = .next (takeFault s.fetchedFrom (some (encode ins)) e s)) := by
  cases r with
  | ok t => exact .inl ⟨t, rfl, rfl⟩
  | error e => exact .inr ⟨e, rfl, rfl⟩

/-- The instruction ran with PC 2 past its address, so the address is found again (R26). -/
@[simp] theorem advance_fetchedFrom (s : State) : s.advance.fetchedFrom = s.pc := by
  simp [State.fetchedFrom]

/-- The coordinate register, with VF read as 0 under the parameter (R262, D26). -/
theorem drawCoord_eq (x : Reg) (s : State) :
    drawCoord x s = if s.params.drawCoordsAfterVfClear = true ∧ x = vf then 0 else (s.reg x).toNat := by
  unfold drawCoord
  by_cases hp : s.params.drawCoordsAfterVfClear = true <;> by_cases hx : x = vf <;>
    simp [hp, hx, reg_setReg]

/-! The drawing of a sprite is the XOR of its pixels, met one at a time. -/

/-- A wrapped pixel lies in the framebuffer (R260). -/
theorem pixelIndex_lt (px py : Nat) : pixelIndex px py < 2048 := by
  unfold pixelIndex displayH displayW; omega

/-- A toggle flips the one pixel it names (R262). -/
@[simp] theorem toggle_fb (px py : Nat) (c : Canvas) (p : Nat) :
    (toggle px py c).fb.getLsbD p = (c.fb.getLsbD p ^^ decide (p = pixelIndex px py)) := by
  have h := pixelIndex_lt px py
  unfold toggle
  by_cases hp : p = pixelIndex px py
  · subst hp; simp [h]
  · simp only [BitVec.getLsbD_xor, BitVec.getLsbD_shiftLeft, BitVec.getLsbD_one, hp, decide_false]
    grind

/-- A toggle notes a collision if its pixel was set (R264). -/
@[simp] theorem toggle_hit (px py : Nat) (c : Canvas) :
    (toggle px py c).hit = (c.hit || c.fb.getLsbD (pixelIndex px py)) := rfl

end Sys2Proof.Machine
end

