-- ==== Sys2Proof/Laws/Draw.lean ====
section
/-! SUPPORT. What drawing a sprite does to each pixel and to the collision note: the loop of R262 is the XOR of the
pixels it covers, since no pixel is met twice. -/

namespace Sys2Proof.Machine

/-- The fold of a row meets pixel `p` in some column of the list. -/
def MeetsIn (l : List Nat) (cx py : Nat) (b : Byte) (p : Nat) : Prop :=
  ∃ col ∈ l, spriteBit b col = true ∧ p = pixelIndex (cx + col) py

/-- A row's byte covers pixel `p` in some column (R260, R263). -/
def RowMeets (cx py : Nat) (b : Byte) (p : Nat) : Prop :=
  ∃ col, col < 8 ∧ spriteBit b col = true ∧ p = pixelIndex (cx + col) py

/-- Two columns of one row land on two pixels: 8 columns fit in 64 (R262). -/
theorem pixelIndex_col_inj {cx py c d : Nat} (hc : c < 8) (hd : d < 8)
    (h : pixelIndex (cx + c) py = pixelIndex (cx + d) py) : c = d := by
  simp only [pixelIndex, displayH, displayW] at h; omega

/-- Two rows of one sprite land on two screen rows: they fit in 32 (R262). -/
theorem pixelIndex_row_inj {px qx py j k : Nat} (hj : j < 32) (hk : k < 32)
    (h : pixelIndex px (py + j) = pixelIndex qx (py + k)) : j = k := by
  simp only [pixelIndex, displayH, displayW] at h; omega

/-- What a fold of toggles over distinct columns does. -/
theorem foldRow_spec (l : List Nat) (hl : l.Nodup) (h8 : ∀ col ∈ l, col < 8) (cx py : Nat) (b : Byte) (c : Canvas) :
    let c' := l.foldl (fun c col => if spriteBit b col then toggle (cx + col) py c else c) c
    (∀ p, MeetsIn l cx py b p → c'.fb.getLsbD p = !c.fb.getLsbD p) ∧
    (∀ p, ¬ MeetsIn l cx py b p → c'.fb.getLsbD p = c.fb.getLsbD p) ∧
    (c'.hit = true ↔ c.hit = true ∨ ∃ p, MeetsIn l cx py b p ∧ c.fb.getLsbD p = true) := by
  induction l generalizing c with
  | nil => simp [MeetsIn]
  | cons d l ih =>
    obtain ⟨hd, hl⟩ := List.nodup_cons.1 hl
    have h8' : ∀ col ∈ l, col < 8 := fun col h => h8 col (List.mem_cons_of_mem _ h)
    have hd8 : d < 8 := h8 d List.mem_cons_self
    have meets : ∀ p, MeetsIn (d :: l) cx py b p ↔
        (spriteBit b d = true ∧ p = pixelIndex (cx + d) py) ∨ MeetsIn l cx py b p := by
      intro p; simp [MeetsIn]
    have fresh : ∀ p, p = pixelIndex (cx + d) py → ¬ MeetsIn l cx py b p := by
      rintro p rfl ⟨col, hcol, -, e⟩
      exact hd (pixelIndex_col_inj hd8 (h8' col hcol) e ▸ hcol)
    simp only [List.foldl_cons]
    by_cases hb : spriteBit b d = true
    · obtain ⟨i1, i2, i3⟩ := ih hl h8' (toggle (cx + d) py c)
      simp only [hb, if_true]
      refine ⟨fun p hp => ?_, fun p hp => ?_, i3.trans ?_⟩
      · rcases (meets p).1 hp with ⟨-, e⟩ | hm
        · rw [i2 p (fresh p e)]; simp [e]
        · rw [i1 p hm]
          have : p ≠ pixelIndex (cx + d) py := fun e => fresh p e hm
          simp [this]
      · rw [meets, not_or] at hp
        rw [i2 p hp.2]
        have : p ≠ pixelIndex (cx + d) py := fun e => hp.1 ⟨hb, e⟩
        simp [this]
      · constructor
        · rintro (h | ⟨p, hm, hp⟩)
          · rcases Bool.or_eq_true .. ▸ (toggle_hit (cx + d) py c ▸ h) with h | h
            · exact .inl h
            · exact .inr ⟨_, (meets _).2 (.inl ⟨hb, rfl⟩), h⟩
          · have : p ≠ pixelIndex (cx + d) py := fun e => fresh p e hm
            exact .inr ⟨p, (meets p).2 (.inr hm), by simpa [this] using hp⟩
        · rintro (h | ⟨p, hm, hp⟩)
          · exact .inl (by simp [h])
          · rcases (meets p).1 hm with ⟨-, e⟩ | hm
            · exact .inl (by simp [← e, hp])
            · have : p ≠ pixelIndex (cx + d) py := fun e => fresh p e hm
              exact .inr ⟨p, hm, by simp [this, hp]⟩
    · obtain ⟨i1, i2, i3⟩ := ih hl h8' c
      have meets' : ∀ p, MeetsIn (d :: l) cx py b p ↔ MeetsIn l cx py b p := by
        intro p; rw [meets]; simp [hb]
      simp only [hb]
      exact ⟨fun p hp => i1 p ((meets' p).1 hp), fun p hp => i2 p (mt (meets' p).2 hp),
        i3.trans (by simp only [meets'])⟩

/-- One row flips the pixels it covers and notes a collision with a set one (R262). -/
theorem drawRow_spec (cx py : Nat) (b : Byte) (c : Canvas) :
    (∀ p, RowMeets cx py b p → (drawRow cx py b c).fb.getLsbD p = !c.fb.getLsbD p) ∧
    (∀ p, ¬ RowMeets cx py b p → (drawRow cx py b c).fb.getLsbD p = c.fb.getLsbD p) ∧
    ((drawRow cx py b c).hit = true ↔ c.hit = true ∨ ∃ p, RowMeets cx py b p ∧ c.fb.getLsbD p = true) := by
  have h := foldRow_spec (List.range 8) List.nodup_range (by simp) cx py b c
  simpa only [MeetsIn, List.mem_range, RowMeets, drawRow] using h

/-- A sprite's bytes cover pixel `p`. -/
def RowsMeet (cx py : Nat) (bs : List Byte) (p : Nat) : Prop :=
  ∃ k b, bs[k]? = some b ∧ RowMeets cx (py + k) b p

/-- A sprite of at most 32 rows flips the pixels it covers, leaves the others, and notes a collision with a set one
(R262, R264). -/
theorem drawRows_spec (cx py : Nat) (bs : List Byte) (hlen : bs.length ≤ 32) (c : Canvas) :
    (∀ p, RowsMeet cx py bs p → (drawRows cx py bs c).fb.getLsbD p = !c.fb.getLsbD p) ∧
    (∀ p, ¬ RowsMeet cx py bs p → (drawRows cx py bs c).fb.getLsbD p = c.fb.getLsbD p) ∧
    ((drawRows cx py bs c).hit = true ↔ c.hit = true ∨ ∃ p, RowsMeet cx py bs p ∧ c.fb.getLsbD p = true) := by
  induction bs generalizing py c with
  | nil => simp [drawRows, RowsMeet]
  | cons b bs ih =>
    simp only [List.length_cons] at hlen
    obtain ⟨i1, i2, i3⟩ := ih (py + 1) (by omega) (drawRow cx py b c)
    obtain ⟨r1, r2, r3⟩ := drawRow_spec cx py b c
    have meets : ∀ p, RowsMeet cx py (b :: bs) p ↔ RowMeets cx py b p ∨ RowsMeet cx (py + 1) bs p := by
      intro p
      constructor
      · rintro ⟨k, d, hk, h⟩
        cases k with
        | zero => simp only [List.getElem?_cons_zero, Option.some.injEq] at hk; subst hk; exact .inl h
        | succ k => exact .inr ⟨k, d, by simpa using hk, by simpa [Nat.add_assoc, Nat.add_comm 1] using h⟩
      · rintro (h | ⟨k, d, hk, h⟩)
        · exact ⟨0, b, rfl, h⟩
        · exact ⟨k + 1, d, by simpa using hk, by simpa [Nat.add_assoc, Nat.add_comm 1] using h⟩
    have fresh : ∀ p, RowMeets cx py b p → ¬ RowsMeet cx (py + 1) bs p := by
      rintro p ⟨c1, -, -, e1⟩ ⟨k, d, hk, c2, -, -, e2⟩
      have hk' : k < bs.length := (List.getElem?_eq_some_iff.1 hk).1
      have := pixelIndex_row_inj (px := cx + c1) (qx := cx + c2) (py := py) (j := 0) (k := 1 + k) (by omega) (by omega)
        (by simpa [Nat.add_assoc] using e1.symm.trans e2)
      omega
    simp only [drawRows]
    refine ⟨fun p hp => ?_, fun p hp => ?_, i3.trans ?_⟩
    · rcases (meets p).1 hp with h | h
      · rw [i2 p (fresh p h), r1 p h]
      · rw [i1 p h, r2 p (fun h' => fresh p h' h)]
    · rw [meets, not_or] at hp
      rw [i2 p hp.2, r2 p hp.1]
    · constructor
      · rintro (h | ⟨p, hm, hp⟩)
        · rcases r3.1 h with h | ⟨p, hm, hp⟩
          · exact .inl h
          · exact .inr ⟨p, (meets p).2 (.inl hm), hp⟩
        · exact .inr ⟨p, (meets p).2 (.inr hm), (r2 p (fun h' => fresh p h' hm)) ▸ hp⟩
      · rintro (h | ⟨p, hm, hp⟩)
        · exact .inl (r3.2 (.inl h))
        · rcases (meets p).1 hm with hm | hm
          · exact .inl (r3.2 (.inr ⟨p, hm, hp⟩))
          · exact .inr ⟨p, hm, (r2 p (fun h' => fresh p h' hm)).trans hp⟩

end Sys2Proof.Machine
end

