-- ==== Sys2Proof/Laws/Encoding.lean ====
section
/-! SUPPORT. The formats and the fields undo each other (`30_encoding.md` R91, R92). -/

namespace Sys2Proof

theorem fields_formatNNN (c : Nibble) (nnn : Addr) :
    classOf (formatNNN c nnn) = c ∧ nnnOf (formatNNN c nnn) = nnn := by
  constructor <;> apply BitVec.eq_of_getLsbD_eq <;> intro b hb <;> simp [classOf, nnnOf, formatNNN] <;> grind

theorem fields_formatXNN (c : Nibble) (x : Reg) (nn : Byte) :
    classOf (formatXNN c x nn) = c ∧ xOf (formatXNN c x nn) = x ∧ nnOf (formatXNN c x nn) = nn := by
  refine ⟨?_, ?_, ?_⟩ <;> apply BitVec.eq_of_getLsbD_eq <;> intro b hb <;>
    simp [classOf, xOf, nnOf, formatXNN] <;> grind

theorem fields_formatXYN (c : Nibble) (x y : Reg) (n : Nibble) :
    classOf (formatXYN c x y n) = c ∧ xOf (formatXYN c x y n) = x ∧ yOf (formatXYN c x y n) = y ∧
      nOf (formatXYN c x y n) = n := by
  refine ⟨?_, ?_, ?_, ?_⟩ <;> apply BitVec.eq_of_getLsbD_eq <;> intro b hb <;>
    simp [classOf, xOf, yOf, nOf, formatXYN] <;> grind

theorem formatNNN_fields (op : Word) : formatNNN (classOf op) (nnnOf op) = op := by
  apply BitVec.eq_of_getLsbD_eq; intro b hb; simp [classOf, nnnOf, formatNNN]; grind

theorem formatXNN_fields (op : Word) : formatXNN (classOf op) (xOf op) (nnOf op) = op := by
  apply BitVec.eq_of_getLsbD_eq; intro b hb; simp [classOf, xOf, nnOf, formatXNN]; grind

theorem formatXYN_fields (op : Word) : formatXYN (classOf op) (xOf op) (yOf op) (nOf op) = op := by
  apply BitVec.eq_of_getLsbD_eq; intro b hb; simp [classOf, xOf, yOf, nOf, formatXYN]; grind

/-- The fields as numbers (R8). -/
theorem classOf_toNat (op : Word) : (classOf op).toNat = op.toNat / 4096 := by
  have := op.isLt
  simp [classOf, BitVec.extractLsb'_toNat, Nat.shiftRight_eq_div_pow]; omega

theorem nOf_toNat (op : Word) : (nOf op).toNat = op.toNat % 16 := by simp [nOf, BitVec.extractLsb'_toNat]

theorem nnOf_toNat (op : Word) : (nnOf op).toNat = op.toNat % 256 := by simp [nnOf, BitVec.extractLsb'_toNat]

/-- What a mask of fixed bits leaves of a word in each format. -/
theorem formatNNN_class (c : Nibble) (nnn : Addr) : formatNNN c nnn &&& 0xF000#16 = formatNNN c 0 := by
  apply BitVec.eq_of_getLsbD_eq; intro b hb
  have h : ∀ b < 16, (0xF000#16).getLsbD b = decide (12 ≤ b) := by decide
  simp only [BitVec.getLsbD_and, h b hb, formatNNN, BitVec.getLsbD_append]
  grind

theorem formatXNN_class (c : Nibble) (x : Reg) (nn : Byte) : formatXNN c x nn &&& 0xF000#16 = formatXNN c 0 0 := by
  apply BitVec.eq_of_getLsbD_eq; intro b hb
  have h : ∀ b < 16, (0xF000#16).getLsbD b = decide (12 ≤ b) := by decide
  simp only [BitVec.getLsbD_and, h b hb, formatXNN, BitVec.getLsbD_append]
  grind

theorem formatXYN_class (c : Nibble) (x y : Reg) (n : Nibble) :
    formatXYN c x y n &&& 0xF000#16 = formatXYN c 0 0 0 := by
  apply BitVec.eq_of_getLsbD_eq; intro b hb
  have h : ∀ b < 16, (0xF000#16).getLsbD b = decide (12 ≤ b) := by decide
  simp only [BitVec.getLsbD_and, h b hb, formatXYN, BitVec.getLsbD_append]
  grind

theorem formatXYN_class_sub (c : Nibble) (x y : Reg) (n : Nibble) :
    formatXYN c x y n &&& 0xF00F#16 = formatXYN c 0 0 n := by
  apply BitVec.eq_of_getLsbD_eq; intro b hb
  have h : ∀ b < 16, (0xF00F#16).getLsbD b = (decide (12 ≤ b) || decide (b < 4)) := by decide
  simp only [BitVec.getLsbD_and, h b hb, formatXYN, BitVec.getLsbD_append]
  grind

theorem formatXNN_class_sub (c : Nibble) (x : Reg) (nn : Byte) :
    formatXNN c x nn &&& 0xF0FF#16 = formatXNN c 0 nn := by
  apply BitVec.eq_of_getLsbD_eq; intro b hb
  have h : ∀ b < 16, (0xF0FF#16).getLsbD b = (decide (12 ≤ b) || decide (b < 8)) := by decide
  simp only [BitVec.getLsbD_and, h b hb, formatXNN, BitVec.getLsbD_append]
  grind

end Sys2Proof
end

