-- ==== Sys2Proof/Laws/Exec.lean ====
section
/-! SUPPORT. One equation for each meaning that has a check: its result where the check passes, and the fault it takes
where it fails. The other meanings are their own equations, by rfl. -/

namespace Sys2Proof.Machine

/-- The fault an instruction takes in the state it runs in. -/
abbrev raised (ins : Instr) (e : Raise) (s : State) : State := takeFault s.fetchedFrom (some (encode ins)) e s

theorem execRet_empty {s : State} (h : s.sp.val = 0) : execRet s = .next (raised .ret ⟨.stackUnderflow, none⟩ s) := by
  rcases popReturn_cases s with ⟨-, e⟩ | ⟨h', -⟩
  · simp [execRet, e]
  · omega

theorem execRet_pops {s : State} (h : 0 < s.sp.val) :
    execRet s = .next { s with sp := ⟨s.sp.val - 1, by omega⟩, pc := s.stack[s.sp.val - 1]'(by omega) } := by
  rcases popReturn_cases s with ⟨h', -⟩ | e
  · omega
  · simp [execRet, e.2]

theorem execCall_full {s : State} (nnn : Addr) (h : s.sp.val = 16) :
    execCall nnn s = .next (raised (.call nnn) ⟨.stackOverflow, none⟩ s) := by
  rcases pushCall_cases (addrWord nnn) s with ⟨-, e⟩ | ⟨h', -⟩
  · simp [execCall, e]
  · omega

theorem execCall_pushes {s : State} (nnn : Addr) (h : s.sp.val < 16) :
    execCall nnn s = .next { s with stack := s.stack.set s.sp.val s.pc, sp := ⟨s.sp.val + 1, Nat.succ_lt_succ h⟩,
                                    pc := addrWord nnn } := by
  rcases pushCall_cases (addrWord nnn) s with ⟨h', -⟩ | e
  · omega
  · simp [execCall, e.2]

/-- What the four restricted instructions share: the result, unless an operand is VF (R171). -/
theorem commit_guard (ins : Instr) (x y : Reg) (s t : State) :
    commit ins s (guardOperands x y t) =
      .next (if x = vf ∨ y = vf then raised ins ⟨.operandInvariant, none⟩ s else t) := by
  rw [guardOperands_eq]; split <;> rfl

theorem execLdReg_eq (x y : Reg) (s : State) : execLdReg x y s =
    .next (if x = vf ∨ y = vf then raised (.ldReg x y) ⟨.operandInvariant, none⟩ s else s.setReg x (s.reg y)) :=
  commit_guard _ _ _ _ _

theorem execOrReg_eq (x y : Reg) (s : State) : execOrReg x y s =
    .next (if x = vf ∨ y = vf then raised (.orReg x y) ⟨.operandInvariant, none⟩ s
      else s.setReg x (s.reg x ||| s.reg y)) :=
  commit_guard _ _ _ _ _

theorem execAndReg_eq (x y : Reg) (s : State) : execAndReg x y s =
    .next (if x = vf ∨ y = vf then raised (.andReg x y) ⟨.operandInvariant, none⟩ s
      else s.setReg x (s.reg x &&& s.reg y)) :=
  commit_guard _ _ _ _ _

theorem execXorReg_eq (x y : Reg) (s : State) : execXorReg x y s =
    .next (if x = vf ∨ y = vf then raised (.xorReg x y) ⟨.operandInvariant, none⟩ s
      else s.setReg x (s.reg x ^^^ s.reg y)) :=
  commit_guard _ _ _ _ _

theorem execAddI_eq (x : Reg) (s : State) : execAddI x s =
    .next (if s.i.toNat + (s.reg x).toNat > 65535 then raised (.addI x) ⟨.indexOverflow, none⟩ s
      else s.setI (BitVec.ofNat 16 (s.i.toNat + (s.reg x).toNat))) := by
  rw [execAddI, indexSum_eq]; split <;> rfl

/-- A store of at least one byte: it lands whole, or faults at the lowest bad address. -/
theorem commit_storeBytes (ins : Instr) (a : Nat) (bs : List Byte) (s : State) (hbs : bs ≠ []) :
    commit ins s (storeBytes a bs s) =
      .next (if a + bs.length ≤ 4096 then s.setBytes a bs else raised ins (boundsRaise a) s) := by
  rw [storeBytes_eq]; simp only [hbs, false_or]; split <;> rfl

theorem execLdB_eq (x : Reg) (s : State) : execLdB x s =
    .next (if s.i.toNat + 3 ≤ 4096 then s.setBytes s.i.toNat (decimalDigits (s.reg x))
      else raised (.ldB x) (boundsRaise s.i.toNat) s) :=
  commit_storeBytes _ _ _ _ (by simp [decimalDigits])

@[simp] theorem regsUpTo_length (s : State) (x : Reg) : (s.regsUpTo x).length = x.toNat + 1 := by
  have := x.isLt
  simp [State.regsUpTo]; omega

/-- The k-th byte that Fx55 stores is V[k] (R214). -/
theorem regsUpTo_get (s : State) (x : Reg) (k : Nat) (h : k ≤ x.toNat) :
    (s.regsUpTo x)[k]? = some (s.reg (BitVec.ofNat 4 k)) := by
  have hx := x.isLt
  have hk : k % 16 = k := by omega
  have hk' : k < 16 := by omega
  simp [State.regsUpTo, State.reg, h, hk, hk']

theorem execStoreRegs_eq (x : Reg) (s : State) : execStoreRegs x s =
    .next (if s.i.toNat + (x.toNat + 1) ≤ 4096 then s.setBytes s.i.toNat (s.regsUpTo x)
      else raised (.storeRegs x) (boundsRaise s.i.toNat) s) := by
  have h := commit_storeBytes (.storeRegs x) (dataBase s) (s.regsUpTo x) s
    (fun h => by have := congrArg List.length h; simp at this)
  simpa [execStoreRegs, dataBase] using h

/-- The bytes a transfer from I reads. -/
def State.bytesFrom (s : State) (n : Nat) : List Byte := (List.range n).map fun k => s.byteAt (s.i.toNat + k)

@[simp] theorem bytesFrom_length (s : State) (n : Nat) : (s.bytesFrom n).length = n := by simp [State.bytesFrom]

theorem bytesFrom_get (s : State) {n k : Nat} (h : k < n) : (s.bytesFrom n)[k]? = some (s.byteAt (s.i.toNat + k)) := by
  simp [State.bytesFrom, h]

theorem execLoadRegs_eq (x : Reg) (s : State) : execLoadRegs x s =
    .next (if s.i.toNat + (x.toNat + 1) ≤ 4096 then s.setRegs (s.bytesFrom (x.toNat + 1))
      else raised (.loadRegs x) (boundsRaise s.i.toNat) s) := by
  rw [execLoadRegs, loadBytes_eq]
  simp only [Nat.succ_ne_zero, false_or, dataBase]
  split <;> rfl

theorem execDrw_eq (x y : Reg) (n : Nibble) (s : State) : execDrw x y n s =
    .next (if n.toNat = 0 ∨ s.i.toNat + n.toNat ≤ 4096
      then drawSprite (drawCoord x s) (drawCoord y s) (s.bytesFrom n.toNat) s
      else raised (.drw x y n) (boundsRaise s.i.toNat) s) := by
  rw [execDrw, loadBytes_eq, dataBase]
  by_cases h : n.toNat = 0 ∨ s.i.toNat + n.toNat ≤ 4096
  · rw [if_pos h, if_pos h]; rfl
  · rw [if_neg h, if_neg h]; rfl

end Sys2Proof.Machine
end

