-- ==== Sys2Proof/Laws/Step.lean ====
section
/-! SUPPORT. What one step can do, said once: the cases of a step that answers a next state. -/

namespace Sys2Proof.Machine

theorem step_running {s : State} (h : s.status = .running) : step s = cycle s := by
  unfold step; rw [h]

/-- Only a Running core answers a next state (R302). -/
theorem running_of_step {s t : State} (h : step s = .next t) : s.status = .running := by
  unfold step at h; split at h
  · assumption
  · cases h
  · cases h

theorem cycle_stop {s : State} (h : s.input.stop = true) :
    cycle s = .next { s.clearPorts with status := .stopped }.nextInput := by
  unfold cycle; rw [if_pos h]

theorem cycle_wait {s : State} {r : Reg} (h : s.input.stop = false) (hm : s.mode = .awaitingKey r) :
    cycle s = .next (timerStep (pollKey r s.clearPorts)).nextInput := by
  simp [cycle, h, hm]

theorem cycle_fetching {s : State} (h : s.input.stop = false) (hm : s.mode = .fetching) :
    cycle s = closeFetching (fetchAndExecute s.clearPorts) := by
  simp [cycle, h, hm]

theorem fetchWord_eq (s : State) :
    fetchWord s = if s.pc.toNat + 1 < 4096
      then .ok (wordOfBytes (s.byteAt s.pc.toNat) (s.byteAt (s.pc.toNat + 1)))
      else .error ⟨.fetchOutOfBounds, none⟩ := rfl

@[simp] theorem fetchWord_clearPorts (s : State) : fetchWord s.clearPorts = fetchWord s := by
  simp [fetchWord_eq]

theorem fetch_outOfBounds {s : State} (h : 4096 ≤ s.pc.toNat + 1) :
    fetchAndExecute s = .next (takeFault s.pc none ⟨.fetchOutOfBounds, none⟩ s) := by
  unfold fetchAndExecute; rw [fetchWord_eq, if_neg (by omega)]

theorem fetch_unsupported {s : State} {op : Word} {e : DecodeReject} (hf : fetchWord s = .ok op)
    (hd : decodeWord op = .error e) :
    fetchAndExecute s = .next (takeFault s.pc (some op) ⟨.unsupportedOpcode, none⟩ s) := by
  simp [fetchAndExecute, hf, hd]

theorem fetch_executes {s : State} {op : Word} {ins : Instr} (hf : fetchWord s = .ok op)
    (hd : decodeWord op = .ok ins) : fetchAndExecute s = exec ins s.advance := by
  simp [fetchAndExecute, hf, hd]

/-- A fetch that fails finds PC at 0xFFF or above (R316). -/
theorem fetch_error {s : State} {e : Raise} (h : fetchWord s = .error e) :
    4096 ≤ s.pc.toNat + 1 ∧ e = ⟨.fetchOutOfBounds, none⟩ := by
  rw [fetchWord_eq] at h
  split at h
  · cases h
  · exact ⟨by omega, by cases h; rfl⟩

/-- The four things a fetch can lead to (R101). -/
theorem fetch_cases (s : State) :
    (4096 ≤ s.pc.toNat + 1 ∧ fetchAndExecute s = .next (takeFault s.pc none ⟨.fetchOutOfBounds, none⟩ s)) ∨
    (∃ op e, fetchWord s = .ok op ∧ decodeWord op = .error e ∧
      fetchAndExecute s = .next (takeFault s.pc (some op) ⟨.unsupportedOpcode, none⟩ s)) ∨
    (∃ op ins, fetchWord s = .ok op ∧ decodeWord op = .ok ins ∧ fetchAndExecute s = exec ins s.advance) := by
  cases hf : fetchWord s with
  | error e => exact .inl ⟨(fetch_error hf).1, fetch_outOfBounds (fetch_error hf).1⟩
  | ok op =>
    cases hd : decodeWord op with
    | error e => exact .inr (.inl ⟨op, e, rfl, hd, fetch_unsupported hf hd⟩)
    | ok ins => exact .inr (.inr ⟨op, ins, rfl, hd, fetch_executes hf hd⟩)

theorem finish_running {s : State} (h : s.status = .running) : finishInstruction s = timerStep (pushDisplay s) := by
  unfold finishInstruction; rw [if_pos h]

theorem finish_faulted {s : State} (h : s.status ≠ .running) : finishInstruction s = s := by
  unfold finishInstruction; rw [if_neg h]

/-- After a fault is taken nothing follows in the cycle (R319). -/
@[simp] theorem finish_takeFault (a : Word) (op : Option Word) (e : Raise) (s : State) :
    finishInstruction (takeFault a op e s) = takeFault a op e s := finish_faulted (by simp)

/-- What a Running core's cycle can do: stop, poll the key, or run one instruction and close the cycle (R302). -/
theorem step_cases {s t : State} (h : step s = .next t) : s.status = .running ∧
    ((s.input.stop = true ∧ t = { s.clearPorts with status := .stopped }.nextInput) ∨
     (s.input.stop = false ∧ ∃ r, s.mode = .awaitingKey r ∧ t = (timerStep (pollKey r s.clearPorts)).nextInput) ∨
     (s.input.stop = false ∧ s.mode = .fetching ∧
       ∃ u, fetchAndExecute s.clearPorts = .next u ∧ t = (finishInstruction u).nextInput)) := by
  have hr := running_of_step h
  refine ⟨hr, ?_⟩
  rw [step_running hr] at h
  cases hs : s.input.stop with
  | true => rw [cycle_stop hs] at h; cases h; exact .inl ⟨rfl, rfl⟩
  | false =>
    cases hm : s.mode with
    | awaitingKey r =>
      rw [cycle_wait hs hm] at h; cases h; exact .inr (.inl ⟨rfl, r, rfl, rfl⟩)
    | fetching =>
      rw [cycle_fetching hs hm] at h
      cases hf : fetchAndExecute s.clearPorts with
      | next u => rw [hf] at h; cases h; exact .inr (.inr ⟨rfl, rfl, u, rfl, rfl⟩)
      | fault r => rw [hf] at h; cases h
      | refused r => rw [hf] at h; cases h

end Sys2Proof.Machine
end

