-- ==== Sys2Proof/Laws/Frames.lean ====
section
/-! SUPPORT. The frame of each update and operation, in the terms of Safety.lean; and the meeting points between those
terms and the machine's own functions. -/

namespace Sys2Proof.Machine

theorem keepsAllBut_refl (ps : List Part) (s : State) : KeepsAllBut ps s s := by
  intro p _; cases p <;> simp [Part.Same]

theorem KeepsAllBut.mono {ps qs : List Part} {s t : State} (h : KeepsAllBut ps s t) (hs : ∀ p ∈ ps, p ∈ qs) :
    KeepsAllBut qs s t := fun p hp => h p (mt (hs p) hp)

theorem KeepsAllBut.trans {ps : List Part} {s t u : State} (h : KeepsAllBut ps s t) (h' : KeepsAllBut ps t u) :
    KeepsAllBut ps s u := by
  intro p hp
  have a := h p hp
  have b := h' p hp
  cases p <;> simp only [Part.Same] at a b ⊢ <;> first | exact b.trans a | exact fun c => (b c).trans (a c)

theorem keeps_setReg (s : State) (x : Reg) (b : Byte) : KeepsAllBut [.v] s (s.setReg x b) := by
  intro p hp; cases p <;> simp_all [Part.Same]

theorem keeps_setRegs (s : State) (bs : List Byte) : KeepsAllBut [.v] s (s.setRegs bs) := by
  intro p hp; cases p <;> simp_all [Part.Same]

theorem keeps_writeFlagged (s : State) (x : Reg) (r : Flagged) : KeepsAllBut [.v] s (writeFlagged x r s) := by
  intro p hp; cases p <;> simp_all [Part.Same]

theorem keeps_setI (s : State) (w : Word) : KeepsAllBut [.i] s (s.setI w) := by
  intro p hp; cases p <;> simp_all [Part.Same]

theorem keeps_setPc (s : State) (w : Word) : KeepsAllBut [.pc] s (s.setPc w) := by
  intro p hp; cases p <;> simp_all [Part.Same]

theorem keeps_skipIf (s : State) (b : Bool) : KeepsAllBut [.pc] s (skipIf b s) := by
  intro p hp; cases p <;> simp_all [Part.Same]

theorem keeps_setDt (s : State) (b : Byte) : KeepsAllBut [.dt] s (s.setDt b) := by
  intro p hp; cases p <;> simp_all [Part.Same]

theorem keeps_setSt (s : State) (b : Byte) : KeepsAllBut [.st] s (s.setSt b) := by
  intro p hp; cases p <;> simp_all [Part.Same]

theorem keeps_setMode (s : State) (m : Mode) : KeepsAllBut [.mode] s (s.setMode m) := by
  intro p hp; cases p <;> simp_all [Part.Same]

theorem keeps_setBytes (s : State) (a : Nat) (bs : List Byte) : KeepsAllBut [.mem] s (s.setBytes a bs) := by
  intro p hp; cases p <;> first | exact absurd List.mem_cons_self hp | exact fun _ => rfl | exact rfl

theorem keepsBytes_setBytes (s : State) (a : Nat) (bs : List Byte) :
    KeepsBytesOutside a bs.length s (s.setBytes a bs) := by
  intro c hc
  rw [setBytes_byteAt]
  split
  · rw [List.getElem?_eq_none (by omega)]; rfl
  · rfl

/-- A stored byte reads back. -/
theorem setBytes_get (s : State) (a k : Nat) (bs : List Byte) (b : Byte) (h : bs[k]? = some b) :
    (s.setBytes a bs).byteAt (a + k) = b := by
  simp [setBytes_byteAt, h]

theorem keeps_clearScreen (s : State) : KeepsAllBut [.fb, .dirty] s (clearScreen s) := by
  intro p hp; cases p <;> simp_all [Part.Same]

theorem keeps_drawSprite (s : State) (cx cy : Nat) (bs : List Byte) :
    KeepsAllBut [.v, .fb, .dirty] s (drawSprite cx cy bs s) := by
  intro p hp; cases p <;> simp_all [Part.Same]

theorem keeps_takeFault (s : State) (a : Word) (op : Option Word) (e : Raise) :
    KeepsAllBut [.pc, .status, .out] s (takeFault a op e s) := by
  intro p hp; cases p <;> simp_all [Part.Same]

theorem keeps_pushDisplay (s : State) : KeepsAllBut [.dirty, .out] s (pushDisplay s) := by
  intro p hp; cases p <;> simp_all [Part.Same]

theorem keeps_timerStep (s : State) : KeepsAllBut [.dt, .st, .acc, .out] s (timerStep s) := by
  intro p hp; cases p <;> simp_all [Part.Same]

theorem keeps_pollKey (s : State) (r : Reg) : KeepsAllBut [.v, .mode] s (pollKey r s) := by
  intro p hp; cases p <;> simp_all [Part.Same]

theorem keeps_nextInput (s : State) : KeepsAllBut [.inputs, .cycles] s s.nextInput := by
  intro p hp; cases p <;> simp_all [Part.Same]

theorem keeps_clearPorts (s : State) : KeepsAllBut [.out] s s.clearPorts := by
  intro p hp; cases p <;> simp_all [Part.Same]

/-- An instruction's fault is the fault of R310 and R319 at the address PC is 2 past. -/
theorem faultTaken_raised (ins : Instr) (e : Raise) (s : State) :
    FaultTaken ins (s.pc - 2) e.cause e.info s (raised ins e s) :=
  ⟨by simp [State.fetchedFrom], by simp [State.fetchedFrom], by simp [State.fetchedFrom], keeps_takeFault _ _ _ _⟩

/-- Two bytes as a word: the first is the high byte (R61). -/
theorem wordOfBytes_eq (hi lo : Byte) : wordOfBytes hi lo = BitVec.ofNat 16 (hi.toNat * 256 + lo.toNat) := by
  have h := lo.isLt
  have h' := hi.isLt
  apply BitVec.eq_of_toNat_eq
  rw [wordOfBytes, BitVec.toNat_append, BitVec.toNat_ofNat, ← Nat.shiftLeft_add_eq_or_of_lt h, Nat.shiftLeft_eq]
  omega

theorem fetchWord_wordAtPc {s : State} (h : s.pc.toNat + 1 < 4096) : fetchWord s = .ok (wordAtPc s) := by
  rw [fetchWord_eq, if_pos h, wordOfBytes_eq]; rfl

theorem atExecute_eq (s : State) : s.atExecute = s.clearPorts.advance := rfl

theorem originCoord_eq (s : State) (x : Reg) : drawCoord x s = originCoord s x := drawCoord_eq x s

/-- The pixel is the bit that the machine's flat index names (R42, R260). -/
theorem pixel_eq (s : State) (px : Fin 64) (py : Fin 32) : s.pixel px py = s.fb.getLsbD (pixelIndex px.val py.val) := by
  have h : pixelIndex px.val py.val = py.val * 64 + px.val := by simp only [pixelIndex, displayH, displayW]; omega
  rw [h]; rfl

/-- A sprite's bytes cover a pixel in both readings (R262). -/
theorem covers_iff (s : State) (n cx cy : Nat) (px : Fin 64) (py : Fin 32) :
    Covers (fun row => s.byteAt (s.i.toNat + row)) n cx cy px py ↔
      RowsMeet cx cy (s.bytesFrom n) (pixelIndex px.val py.val) := by
  have index : ∀ col row, pixelIndex px.val py.val = pixelIndex (cx + col) (cy + row) ↔
      (cx + col) % 64 = px.val ∧ (cy + row) % 32 = py.val := by
    intro col row; simp only [pixelIndex, displayH, displayW]; omega
  constructor
  · rintro ⟨row, col, hr, hc, hb, h1, h2⟩
    exact ⟨row, _, bytesFrom_get s hr, col, hc, hb, (index col row).2 ⟨h1, h2⟩⟩
  · rintro ⟨row, b, hb, col, hc, hs, h⟩
    have hr : row < n := by simpa using (List.getElem?_eq_some_iff.1 hb).1
    rw [bytesFrom_get s hr] at hb
    cases hb
    exact ⟨row, col, hr, hc, hs, (index col row).1 h⟩

/-- Every covered flat index is a pixel. -/
theorem rowsMeet_pixel {cx cy : Nat} {bs : List Byte} {p : Nat} (h : RowsMeet cx cy bs p) :
    ∃ (px : Fin 64) (py : Fin 32), p = pixelIndex px.val py.val := by
  obtain ⟨k, b, -, col, -, -, rfl⟩ := h
  refine ⟨⟨(cx + col) % 64, by omega⟩, ⟨(cy + k) % 32, by omega⟩, ?_⟩
  simp only [pixelIndex, displayH, displayW]; omega

end Sys2Proof.Machine
end

