-- ==== Sys2Proof/Laws/PerInstr.lean ====
section
/-! SUPPORT. The family Encoding: the word of each instruction lies in its row of spec/opcode_table.json, that is, has the
row's match bits under the row's mask. -/

namespace Sys2Proof.Laws

/-- A row of the opcode table: its mask and its match. -/
structure OpcodeRow where
  mask : Word
  matchBits : Word
  deriving DecidableEq, Repr

/-- The row of an instruction, as spec/opcode_table.json gives it. -/
def opcodeRow : Instr → OpcodeRow
  | .cls => ⟨0xFFFF#16, 0x00E0#16⟩
  | .ret => ⟨0xFFFF#16, 0x00EE#16⟩
  | .jp _ => ⟨0xF000#16, 0x1000#16⟩
  | .call _ => ⟨0xF000#16, 0x2000#16⟩
  | .seImm _ _ => ⟨0xF000#16, 0x3000#16⟩
  | .sneImm _ _ => ⟨0xF000#16, 0x4000#16⟩
  | .seReg _ _ => ⟨0xF00F#16, 0x5000#16⟩
  | .ldImm _ _ => ⟨0xF000#16, 0x6000#16⟩
  | .addImm _ _ => ⟨0xF000#16, 0x7000#16⟩
  | .ldReg _ _ => ⟨0xF00F#16, 0x8000#16⟩
  | .orReg _ _ => ⟨0xF00F#16, 0x8001#16⟩
  | .andReg _ _ => ⟨0xF00F#16, 0x8002#16⟩
  | .xorReg _ _ => ⟨0xF00F#16, 0x8003#16⟩
  | .addReg _ _ => ⟨0xF00F#16, 0x8004#16⟩
  | .subReg _ _ => ⟨0xF00F#16, 0x8005#16⟩
  | .shr _ _ => ⟨0xF00F#16, 0x8006#16⟩
  | .subnReg _ _ => ⟨0xF00F#16, 0x8007#16⟩
  | .shl _ _ => ⟨0xF00F#16, 0x800E#16⟩
  | .sneReg _ _ => ⟨0xF00F#16, 0x9000#16⟩
  | .ldI _ => ⟨0xF000#16, 0xA000#16⟩
  | .jpV0 _ => ⟨0xF000#16, 0xB000#16⟩
  | .rnd _ _ => ⟨0xF000#16, 0xC000#16⟩
  | .drw _ _ _ => ⟨0xF000#16, 0xD000#16⟩
  | .skp _ => ⟨0xF0FF#16, 0xE09E#16⟩
  | .sknp _ => ⟨0xF0FF#16, 0xE0A1#16⟩
  | .ldVxDt _ => ⟨0xF0FF#16, 0xF007#16⟩
  | .ldVxK _ => ⟨0xF0FF#16, 0xF00A#16⟩
  | .ldDtVx _ => ⟨0xF0FF#16, 0xF015#16⟩
  | .ldStVx _ => ⟨0xF0FF#16, 0xF018#16⟩
  | .addI _ => ⟨0xF0FF#16, 0xF01E#16⟩
  | .ldF _ => ⟨0xF0FF#16, 0xF029#16⟩
  | .ldB _ => ⟨0xF0FF#16, 0xF033#16⟩
  | .storeRegs _ => ⟨0xF0FF#16, 0xF055#16⟩
  | .loadRegs _ => ⟨0xF0FF#16, 0xF065#16⟩

/-- The instruction's word lies in its row. -/
def Encoding.Statement (i : Instr) : Prop := encode i &&& (opcodeRow i).mask = (opcodeRow i).matchBits

theorem Encoding.cls : Encoding.Statement .cls := by unfold Encoding.Statement; decide
theorem Encoding.ret : Encoding.Statement .ret := by unfold Encoding.Statement; decide
theorem Encoding.jp (nnn : Addr) : Encoding.Statement (.jp nnn) := formatNNN_class _ _
theorem Encoding.call (nnn : Addr) : Encoding.Statement (.call nnn) := formatNNN_class _ _
theorem Encoding.seImm (x : Reg) (nn : Byte) : Encoding.Statement (.seImm x nn) := formatXNN_class _ _ _
theorem Encoding.sneImm (x : Reg) (nn : Byte) : Encoding.Statement (.sneImm x nn) := formatXNN_class _ _ _
theorem Encoding.seReg (x : Reg) (y : Reg) : Encoding.Statement (.seReg x y) := formatXYN_class_sub _ _ _ _
theorem Encoding.ldImm (x : Reg) (nn : Byte) : Encoding.Statement (.ldImm x nn) := formatXNN_class _ _ _
theorem Encoding.addImm (x : Reg) (nn : Byte) : Encoding.Statement (.addImm x nn) := formatXNN_class _ _ _
theorem Encoding.ldReg (x : Reg) (y : Reg) : Encoding.Statement (.ldReg x y) := formatXYN_class_sub _ _ _ _
theorem Encoding.orReg (x : Reg) (y : Reg) : Encoding.Statement (.orReg x y) := formatXYN_class_sub _ _ _ _
theorem Encoding.andReg (x : Reg) (y : Reg) : Encoding.Statement (.andReg x y) := formatXYN_class_sub _ _ _ _
theorem Encoding.xorReg (x : Reg) (y : Reg) : Encoding.Statement (.xorReg x y) := formatXYN_class_sub _ _ _ _
theorem Encoding.addReg (x : Reg) (y : Reg) : Encoding.Statement (.addReg x y) := formatXYN_class_sub _ _ _ _
theorem Encoding.subReg (x : Reg) (y : Reg) : Encoding.Statement (.subReg x y) := formatXYN_class_sub _ _ _ _
theorem Encoding.shr (x : Reg) (y : Reg) : Encoding.Statement (.shr x y) := formatXYN_class_sub _ _ _ _
theorem Encoding.subnReg (x : Reg) (y : Reg) : Encoding.Statement (.subnReg x y) := formatXYN_class_sub _ _ _ _
theorem Encoding.shl (x : Reg) (y : Reg) : Encoding.Statement (.shl x y) := formatXYN_class_sub _ _ _ _
theorem Encoding.sneReg (x : Reg) (y : Reg) : Encoding.Statement (.sneReg x y) := formatXYN_class_sub _ _ _ _
theorem Encoding.ldI (nnn : Addr) : Encoding.Statement (.ldI nnn) := formatNNN_class _ _
theorem Encoding.jpV0 (nnn : Addr) : Encoding.Statement (.jpV0 nnn) := formatNNN_class _ _
theorem Encoding.rnd (x : Reg) (nn : Byte) : Encoding.Statement (.rnd x nn) := formatXNN_class _ _ _
theorem Encoding.drw (x : Reg) (y : Reg) (n : Nibble) : Encoding.Statement (.drw x y n) := formatXYN_class _ _ _ _
theorem Encoding.skp (x : Reg) : Encoding.Statement (.skp x) := formatXNN_class_sub _ _ _
theorem Encoding.sknp (x : Reg) : Encoding.Statement (.sknp x) := formatXNN_class_sub _ _ _
theorem Encoding.ldVxDt (x : Reg) : Encoding.Statement (.ldVxDt x) := formatXNN_class_sub _ _ _
theorem Encoding.ldVxK (x : Reg) : Encoding.Statement (.ldVxK x) := formatXNN_class_sub _ _ _
theorem Encoding.ldDtVx (x : Reg) : Encoding.Statement (.ldDtVx x) := formatXNN_class_sub _ _ _
theorem Encoding.ldStVx (x : Reg) : Encoding.Statement (.ldStVx x) := formatXNN_class_sub _ _ _
theorem Encoding.addI (x : Reg) : Encoding.Statement (.addI x) := formatXNN_class_sub _ _ _
theorem Encoding.ldF (x : Reg) : Encoding.Statement (.ldF x) := formatXNN_class_sub _ _ _
theorem Encoding.ldB (x : Reg) : Encoding.Statement (.ldB x) := formatXNN_class_sub _ _ _
theorem Encoding.storeRegs (x : Reg) : Encoding.Statement (.storeRegs x) := formatXNN_class_sub _ _ _
theorem Encoding.loadRegs (x : Reg) : Encoding.Statement (.loadRegs x) := formatXNN_class_sub _ _ _

end Sys2Proof.Laws
end

