-- ==== Sys2Proof/Tests/Slice0.lean ====
section
/-! SUPPORT. The model's own tests. Expected results are from the spec: `30_encoding.md` (words), `95_test_vectors.md`
(vectors), or hand calculation from the rule a test names. Last come the witnesses of the statements' hypotheses. -/

namespace Sys2Proof.Tests

open Sys2Proof Sys2Proof.Machine

/-! ## Well-formedness: an ill-formed term for each check (R171) -/

theorem test_wf_refuses_ldReg_x : (Instr.ldReg 0xF 0).wellFormed = false := by decide
theorem test_wf_refuses_ldReg_y : (Instr.ldReg 0 0xF).wellFormed = false := by decide
theorem test_wf_refuses_orReg_x : (Instr.orReg 0xF 1).wellFormed = false := by decide
theorem test_wf_refuses_orReg_y : (Instr.orReg 1 0xF).wellFormed = false := by decide
theorem test_wf_refuses_andReg_x : (Instr.andReg 0xF 2).wellFormed = false := by decide
theorem test_wf_refuses_andReg_y : (Instr.andReg 2 0xF).wellFormed = false := by decide
theorem test_wf_refuses_xorReg_x : (Instr.xorReg 0xF 3).wellFormed = false := by decide
theorem test_wf_refuses_xorReg_y : (Instr.xorReg 3 0xF).wellFormed = false := by decide
theorem test_wf_allows_ldReg : (Instr.ldReg 0xE 0xE).wellFormed = true := by decide
theorem test_wf_allows_flag_elsewhere : (Instr.addReg 0xF 0xF).wellFormed = true := by decide

/-! ## Decoding: a word of each row, written out from its encoding (R95, R99 and the rules' examples) -/

theorem test_decode_cls : decodeWord 0b0000_0000_1110_0000#16 = .ok .cls := by decide
theorem test_decode_ret : decodeWord 0b0000_0000_1110_1110#16 = .ok .ret := by decide
theorem test_decode_jp : decodeWord 0b0001_0010_0000_1000#16 = .ok (.jp 0x208) := by decide
theorem test_decode_call : decodeWord 0b0010_0010_0000_1100#16 = .ok (.call 0x20C) := by decide
theorem test_decode_seImm : decodeWord 0b0011_0000_0000_0101#16 = .ok (.seImm 0 5) := by decide
theorem test_decode_sneImm : decodeWord 0b0100_0011_0001_0010#16 = .ok (.sneImm 3 0x12) := by decide
theorem test_decode_seReg : decodeWord 0b0101_0001_0010_0000#16 = .ok (.seReg 1 2) := by decide
theorem test_decode_ldImm : decodeWord 0b0110_1010_0010_1111#16 = .ok (.ldImm 0xA 0x2F) := by decide
theorem test_decode_addImm : decodeWord 0b0111_0010_1000_0000#16 = .ok (.addImm 2 0x80) := by decide
theorem test_decode_ldReg : decodeWord 0b1000_0000_0001_0000#16 = .ok (.ldReg 0 1) := by decide
theorem test_decode_orReg : decodeWord 0b1000_0000_0001_0001#16 = .ok (.orReg 0 1) := by decide
theorem test_decode_andReg : decodeWord 0b1000_0000_0001_0010#16 = .ok (.andReg 0 1) := by decide
theorem test_decode_xorReg : decodeWord 0b1000_0000_0001_0011#16 = .ok (.xorReg 0 1) := by decide
theorem test_decode_addReg : decodeWord 0b1000_0000_0001_0100#16 = .ok (.addReg 0 1) := by decide
theorem test_decode_subReg : decodeWord 0b1000_0000_0001_0101#16 = .ok (.subReg 0 1) := by decide
theorem test_decode_shr : decodeWord 0b1000_0011_0000_0110#16 = .ok (.shr 3 0) := by decide
theorem test_decode_subnReg : decodeWord 0b1000_0010_0011_0111#16 = .ok (.subnReg 2 3) := by decide
theorem test_decode_shl : decodeWord 0b1000_0011_0000_1110#16 = .ok (.shl 3 0) := by decide
theorem test_decode_sneReg : decodeWord 0b1001_1010_1011_0000#16 = .ok (.sneReg 0xA 0xB) := by decide
theorem test_decode_ldI : decodeWord 0b1010_0011_0000_0000#16 = .ok (.ldI 0x300) := by decide
theorem test_decode_jpV0 : decodeWord 0b1011_1111_1111_1111#16 = .ok (.jpV0 0xFFF) := by decide
theorem test_decode_rnd : decodeWord 0b1100_0001_0000_1111#16 = .ok (.rnd 1 0x0F) := by decide
theorem test_decode_drw : decodeWord 0b1101_0000_0001_0101#16 = .ok (.drw 0 1 5) := by decide
theorem test_decode_skp : decodeWord 0b1110_0100_1001_1110#16 = .ok (.skp 4) := by decide
theorem test_decode_sknp : decodeWord 0b1110_0100_1010_0001#16 = .ok (.sknp 4) := by decide
theorem test_decode_ldVxDt : decodeWord 0b1111_0011_0000_0111#16 = .ok (.ldVxDt 3) := by decide
theorem test_decode_ldVxK : decodeWord 0b1111_0101_0000_1010#16 = .ok (.ldVxK 5) := by decide
theorem test_decode_ldDtVx : decodeWord 0b1111_0001_0001_0101#16 = .ok (.ldDtVx 1) := by decide
theorem test_decode_ldStVx : decodeWord 0b1111_0001_0001_1000#16 = .ok (.ldStVx 1) := by decide
theorem test_decode_addI : decodeWord 0b1111_0001_0001_1110#16 = .ok (.addI 1) := by decide
theorem test_decode_ldF : decodeWord 0b1111_1010_0010_1001#16 = .ok (.ldF 0xA) := by decide
theorem test_decode_ldB : decodeWord 0b1111_1010_0011_0011#16 = .ok (.ldB 0xA) := by decide
theorem test_decode_storeRegs : decodeWord 0b1111_0010_0101_0101#16 = .ok (.storeRegs 2) := by decide
theorem test_decode_loadRegs : decodeWord 0b1111_0010_0110_0101#16 = .ok (.loadRegs 2) := by decide

/-- Words that `95_test_vectors.md` lists as Unsupported. -/
def unsupportedWords : List Word :=
  [0x0000, 0x00E1, 0x01E0, 0x0123, 0x5121, 0x8008, 0x800F, 0x9AB1, 0xE09F, 0xF090, 0xF075, 0xFFFF]

theorem test_decode_rejects :
    unsupportedWords.map decodeWord = unsupportedWords.map fun op => .error (.unsupported op) := by decide

theorem test_decode_truncated : decodeBytes [0x12] = .error .truncated := by decide

/-- The first byte is the high one, and the rest of the bytes stay (R61, R90). -/
theorem test_decode_bytes : decodeBytes [0x12, 0x34, 0x56] = .ok (.jp 0x234, [0x56]) := by decide

/-- No two rows of the opcode table share a word: two rows differ in a bit that both fix (R95). -/
theorem test_rows_disjoint :
    ([.cls, .ret, .jp 0, .call 0, .seImm 0 0, .sneImm 0 0, .seReg 0 0, .ldImm 0 0, .addImm 0 0, .ldReg 0 0, .orReg 0 0,
      .andReg 0 0, .xorReg 0 0, .addReg 0 0, .subReg 0 0, .shr 0 0, .subnReg 0 0] ++
      [.shl 0 0, .sneReg 0 0, .ldI 0, .jpV0 0, .rnd 0 0, .drw 0 0 0, .skp 0, .sknp 0, .ldVxDt 0, .ldVxK 0, .ldDtVx 0,
       .ldStVx 0, .addI 0, .ldF 0, .ldB 0, .storeRegs 0, .loadRegs 0] : List Instr).Pairwise (fun i j =>
      (Laws.opcodeRow i).mask &&& (Laws.opcodeRow j).mask &&&
        ((Laws.opcodeRow i).matchBits ^^^ (Laws.opcodeRow j).matchBits) ≠ 0) := by decide +kernel

/-! ## One cycle -/

/-- The next state, if there is one. -/
def nextState : Result → Option State
  | .next t => some t
  | .fault _ => none
  | .refused _ => none

/-- The reset state as `f` changes it, with PC at `a`, the word `w` there, and the port values `inp` for the cycle. -/
def planted (a : Word) (w : Nat) (inp : Input) (f : State → State) : State :=
  ({ f State.reset with pc := a, inputs := [inp] } : State).withFetchWord 16 w

/-- What `get` reads of the state after one cycle of the planted core. -/
def after {α : Type} (a : Word) (w : Nat) (f : State → State) (get : State → α) (inp : Input := quietInput) : Option α :=
  (nextState (step (planted a w inp f))).map get

/-- The record of a fault by the instruction at `a`. -/
def record (cause : FaultCause) (a op : Word) (info : Option Nat := none) : Status :=
  .faulted { cause := cause, pc := some a, opcode := some op, info := info }

/-! ### Control flow (`95_test_vectors.md`) -/

theorem test_ret : after 0x210 0x00EE (fun s => { s with sp := 1, stack := s.stack.set 0 0x206 })
    (fun t => (t.sp, t.pc, t.stack[0])) = some (0, 0x206, 0x206) := by decide
theorem test_ret_empty : after 0x300 0x00EE id (fun t => (t.status, t.pc)) =
    some (record .stackUnderflow 0x300 0x00EE, 0x300) := by decide
theorem test_jp_self : after 0x208 0x1208 id (·.pc) = some 0x208 := by decide
theorem test_jpV0_past_memory : after 0x200 0xBFFF (·.setReg 0 0xFF) (fun t => (t.pc, t.status)) =
    some (0x10FE, .running) := by decide
theorem test_call_last_cell : after 0x200 0x2400 (fun s => { s with sp := 15 }) (fun t => (t.stack[15], t.sp, t.pc)) =
    some (0x202, 16, 0x400) := by decide
theorem test_call_full : after 0x200 0x2400 (fun s => { s with sp := 16 }) (fun t => (t.status, t.sp)) =
    some (record .stackOverflow 0x200 0x2400, 16) := by decide
theorem test_seImm_skips : after 0x206 0x3005 (·.setReg 0 5) (·.pc) = some 0x20A := by decide
theorem test_seImm_past_memory : after 0xFFC 0x3000 id (·.pc) = some 0x1000 := by decide
theorem test_sneImm_equal : after 0x200 0x4312 (·.setReg 3 0x12) (·.pc) = some 0x202 := by decide
theorem test_sneImm_differs : after 0x200 0x4313 (·.setReg 3 0x12) (·.pc) = some 0x204 := by decide
theorem test_seReg_skips : after 0x300 0x5120 (fun s => (s.setReg 1 7).setReg 2 7) (·.pc) = some 0x304 := by decide
theorem test_sneReg_skips : after 0x300 0x9120 (fun s => (s.setReg 1 7).setReg 2 8) (·.pc) = some 0x304 := by decide
theorem test_sneReg_same : after 0x300 0x9110 id (·.pc) = some 0x302 := by decide
theorem test_skp_key_zero : after 0x220 0xE49E id (·.pc) { quietInput with key := some 0 } = some 0x224 := by decide
theorem test_skp_above_15 : after 0x220 0xE49E (·.setReg 4 0x10) (·.pc) { quietInput with key := some 0 } =
    some 0x222 := by decide
theorem test_sknp_other_key : after 0x220 0xE4A1 (·.setReg 4 0xA) (·.pc) { quietInput with key := some 3 } =
    some 0x224 := by decide
theorem test_sknp_same_key : after 0x220 0xE4A1 (·.setReg 4 0xA) (·.pc) { quietInput with key := some 0xA } =
    some 0x222 := by decide

/-! ### Arithmetic and logic (`95_test_vectors.md`) -/

/-- V0, V1 and VF, the registers of the table's rows. -/
def regs01F (a b f : Byte) (s : State) : State := ((s.setReg 0 a).setReg 1 b).setReg vf f

theorem test_ldImm : after 0x200 0x602A id (·.reg 0) = some 0x2A := by decide
theorem test_addImm_wraps : after 0x200 0x7001 (regs01F 0xFF 0 0x33) (fun t => (t.reg 0, t.reg vf)) =
    some (0x00, 0x33) := by decide
theorem test_addImm_flag_as_data : after 0x200 0x7F01 (regs01F 0 0 0xFF) (·.reg vf) = some 0 := by decide
theorem test_ldReg : after 0x200 0x8010 (regs01F 0x11 0x33 7) (fun t => (t.reg 0, t.reg vf)) = some (0x33, 7) := by decide
theorem test_ldReg_flag_faults : after 0x200 0x8F10 id (·.status) = some (record .operandInvariant 0x200 0x8F10) := by
  decide
theorem test_orReg : after 0x200 0x8011 (regs01F 0x0F 0xF0 0x77) (fun t => (t.reg 0, t.reg vf)) = some (0xFF, 0x77) := by
  decide
theorem test_orReg_flag_faults : after 0x200 0x80F1 id (·.status) = some (record .operandInvariant 0x200 0x80F1) := by
  decide
theorem test_andReg : after 0x200 0x8012 (regs01F 0x3C 0x0F 0) (·.reg 0) = some 0x0C := by decide
theorem test_andReg_flag_faults : after 0x200 0x8FF2 id (·.status) = some (record .operandInvariant 0x200 0x8FF2) := by
  decide
theorem test_xorReg : after 0x200 0x8013 (regs01F 0x3C 0x0F 0) (·.reg 0) = some 0x33 := by decide
theorem test_xorReg_flag_faults : after 0x200 0x8FE3 id (·.status) = some (record .operandInvariant 0x200 0x8FE3) := by
  decide
theorem test_addReg_old_flag : after 0x200 0x80F4 (regs01F 0xFF 0 1) (fun t => (t.reg 0, t.reg vf)) = some (0, 1) := by
  decide
theorem test_addReg_lost_to_flag : after 0x200 0x8F14 (regs01F 0 0x20 0x10) (·.reg vf) = some 0 := by decide
theorem test_subReg_borrow : after 0x200 0x8015 (regs01F 0 1 0) (fun t => (t.reg 0, t.reg vf)) = some (0xFF, 1) := by
  decide
theorem test_subReg_equal : after 0x200 0x8015 (regs01F 5 5 1) (fun t => (t.reg 0, t.reg vf)) = some (0, 0) := by decide
theorem test_shr : after 0x200 0x8006 (regs01F 0xFF 0 0) (fun t => (t.reg 0, t.reg vf)) = some (0x7F, 1) := by decide
theorem test_shr_ignores_y : after 0x200 0x8016 (regs01F 2 0xFF 1) (fun t => (t.reg 0, t.reg vf)) = some (1, 0) := by
  decide
theorem test_subnReg_borrow : after 0x200 0x8017 (regs01F 0xFE 6 0) (fun t => (t.reg 0, t.reg vf)) = some (8, 1) := by
  decide
theorem test_subnReg : after 0x200 0x8017 (regs01F 1 2 1) (fun t => (t.reg 0, t.reg vf)) = some (1, 0) := by decide
theorem test_shl : after 0x200 0x800E (regs01F 0x80 0 0) (fun t => (t.reg 0, t.reg vf)) = some (0, 1) := by decide
theorem test_shl_flag : after 0x200 0x8F0E (regs01F 0 0 0x40) (·.reg vf) = some 0 := by decide
theorem test_rnd : after 0x200 0xC00F id (·.reg 0) { quietInput with rand := 0xB7 } = some 0x07 := by decide

/-! ### Index and memory (`95_test_vectors.md`) -/

theorem test_ldI : after 0x200 0xA300 id (·.i) = some 0x300 := by decide
theorem test_addI_past_memory : after 0x200 0xF01E (fun s => (s.setReg 0 0x20).setI 0x0FF0) (fun t => (t.i, t.status)) =
    some (0x1010, .running) := by decide
theorem test_addI_overflow : after 0x200 0xF01E (fun s => (s.setReg 0 1).setI 0xFFFF) (fun t => (t.status, t.i)) =
    some (record .indexOverflow 0x200 0xF01E, 0xFFFF) := by decide
theorem test_ldF_not_masked : after 0x200 0xF029 (·.setReg 0 0xFF) (·.i) = some 0x4FB := by decide
theorem test_ldB : after 0x200 0xFA33 (fun s => (s.setReg 0xA 234).setI 0x300)
    (fun t => (t.byteAt 0x300, t.byteAt 0x301, t.byteAt 0x302, t.i)) = some (2, 3, 4, 0x300) := by decide
theorem test_ldB_out_of_bounds : after 0x200 0xF033 (fun s => (s.setReg 0 0xFF).setI 0xFFE)
    (fun t => (t.status, t.byteAt 0xFFE, t.byteAt 0xFFF)) =
    some (record .dataOutOfBounds 0x200 0xF033 (some 0x1000), 0, 0) := by decide
theorem test_storeRegs : after 0x200 0xF255 (fun s => (((s.setReg 0 1).setReg 1 2).setReg 2 3).setI 0x400)
    (fun t => (t.byteAt 0x400, t.byteAt 0x401, t.byteAt 0x402, t.byteAt 0x403, t.i)) =
    some (1, 2, 3, 0, 0x400) := by decide
theorem test_storeRegs_out_of_bounds : after 0x200 0xFF55 (fun s => (s.setReg 0 9).setI 0xFF1)
    (fun t => (t.status, t.byteAt 0xFF1)) = some (record .dataOutOfBounds 0x200 0xFF55 (some 0x1000), 0) := by decide
theorem test_loadRegs : after 0x200 0xF265 (fun s => (((s.setByte 0x300 2).setByte 0x301 3).setByte 0x302 4).setI 0x300)
    (fun t => (t.reg 0, t.reg 1, t.reg 2, t.reg 3, t.i)) = some (2, 3, 4, 0, 0x300) := by decide
theorem test_loadRegs_out_of_bounds : after 0x200 0xF065 (·.setI 0x1010) (·.status) =
    some (record .dataOutOfBounds 0x200 0xF065 (some 0x1010)) := by decide

/-! ### Timers and keys (`95_test_vectors.md`) -/

theorem test_ldVxDt_before_the_step : after 0x200 0xF307 (·.setDt 0x2A) (fun t => (t.reg 3, t.dt))
    { quietInput with tickMs := 17 } = some (0x2A, 0x29) := by decide
theorem test_ldDtVx_same_cycle : after 0x200 0xF015 (·.setReg 0 0x3C) (·.dt) { quietInput with tickMs := 17 } =
    some 0x3B := by decide
theorem test_ldStVx_zero_no_beep : after 0x200 0xF018 (·.setSt 5) (fun t => (t.st, t.out.beep)) = some (0, false) := by
  decide
theorem test_ldStVx_one_beeps : after 0x200 0xF018 (·.setReg 0 1) (fun t => (t.st, t.out.beep))
    { quietInput with tickMs := 17 } = some (0, true) := by decide
theorem test_ldVxK_not_polled_now : after 0x200 0xF50A (·.setReg 5 9) (fun t => (t.mode, t.pc, t.reg 5))
    { quietInput with key := some 3 } = some (.awaitingKey 5, 0x202, 9) := by decide

/-- A key-wait core with the given port values. -/
def waiting (r : Reg) (inp : Input) : State :=
  { State.reset with pc := 0x202, mode := .awaitingKey r, dirty := false, inputs := [inp] }

theorem test_wait_no_key : (nextState (step (waiting 5 quietInput))).map (fun t => (t.mode, t.pc, t.reg 5)) =
    some (.awaitingKey 5, 0x202, 0) := by decide
theorem test_wait_key_to_flag : (nextState (step (waiting 0xF { quietInput with key := some 9 }))).map
    (fun t => (t.mode, t.pc, t.reg vf)) = some (.fetching, 0x202, 9) := by decide

/-- A timer step alone: acc, DT and ST before, then acc, DT, ST and the beep after. -/
def timed (acc : Nat) (dt st : Byte) (tick : Nat) : Nat × Byte × Byte × Bool :=
  let t := timerStep { State.reset with acc := acc, dt := dt, st := st, inputs := [{ quietInput with tickMs := tick }] }
  (t.acc, t.dt, t.st, t.out.beep)

theorem test_timer_at_16 : timed 0 5 5 16 = (16, 5, 5, false) := by decide
theorem test_timer_at_17 : timed 16 5 1 1 = (0, 4, 0, true) := by decide
theorem test_timer_once : timed 0 5 5 1000 = (0, 4, 4, false) := by decide
theorem test_timer_floor : timed 0 1 0 17 = (0, 0, 0, false) := by decide

/-! ### Display (`95_test_vectors.md`) -/

theorem test_cls : after 0x200 0x00E0 (fun s => { s with fb := 0xFF, dirty := false })
    (fun t => (t.fb, t.dirty, t.out.refresh)) = some (0, false, some 0) := by decide +kernel

/-- The set pixels of a framebuffer, as flat indices. -/
def setPixels (fb : Framebuffer) : List Nat := (List.range 2048).filter fun p => fb.getLsbD p

theorem test_drw_wraps : after 0x200 0xD015 (regs01F 62 30 3) (fun t => (setPixels t.fb, t.reg vf)) =
    some ([1, 62, 65, 126, 128, 129, 190, 191, 1920, 1921, 1982, 1983, 1985, 2046], 0) := by decide +kernel
/-- DFF1 under each value of DRAW_COORDS_AFTER_VF_CLEAR (D26). -/
def drawAtFlag (b : Bool) : Option (List Nat × Byte) :=
  after 0x200 0xDFF1 (fun s => ({ s with params := { s.params with drawCoordsAfterVfClear := b } }.setByte 0x300 0x80
    |>.setI 0x300).setReg vf 3) (fun t => (setPixels t.fb, t.reg vf))

theorem test_drw_coords : (drawAtFlag false, drawAtFlag true) = (some ([195], 0), some ([0], 0)) := by decide +kernel

/-! ### Fetch, faults, stop, reset and load (`95_test_vectors.md`) -/

theorem test_fetch_odd : after 0x201 0x607F id (fun t => (t.reg 0, t.pc)) = some (0x7F, 0x203) := by decide
theorem test_fetch_last_word : after 0xFFE 0x1200 id (·.pc) = some 0x200 := by decide
theorem test_fetch_past_memory :
    (nextState (step { State.reset with pc := 0xFFF, inputs := [quietInput] })).map (fun t => (t.status, t.pc)) =
    some (.faulted { cause := .fetchOutOfBounds, pc := some 0xFFF, opcode := none, info := none }, 0xFFF) := by decide
theorem test_fault_no_timer_step : after 0x200 0x0000 (·.setDt 5) (fun t => (t.dt, t.acc, t.dirty, t.out.refresh))
    { quietInput with tickMs := 17 } = some (5, 0, true, none) := by decide +kernel
theorem test_stop : (nextState (step { State.reset with inputs := [{ quietInput with stop := true }] })).map
    (fun t => (t.status, t.pc, t.dirty, t.out)) = some (.stopped, 0x200, true, {}) := by decide +kernel
theorem test_first_cycle_refreshes : after 0x200 0x6000 id (fun t => (t.out.refresh, t.dirty)) = some (some 0, false) := by
  decide +kernel
theorem test_reset_glyph : (State.reset.byteAt 0x04A, State.reset.byteAt 0x04B, State.reset.byteAt 0x050) =
    (0xF0, 0xF0, 0) := by decide
theorem test_reset_after_fault : (resetCore { State.reset with status := record .stackOverflow 0 0 }).status = .running := by
  decide
theorem test_load : ((load [0x12, 0x34] State.reset).byteAt 0x200, (load [0x12, 0x34] State.reset).byteAt 0x201) =
    (0x12, 0x34) := by decide
theorem test_fault_codes : [FaultCause.unsupportedOpcode, .stackOverflow, .stackUnderflow, .programTooLarge,
    .operandInvariant, .fetchOutOfBounds, .dataOutOfBounds, .indexOverflow].map FaultCause.code =
    [1, 2, 3, 4, 5, 6, 7, 8] := by decide

/-! ### The host's two words -/

theorem test_decodeTableWord : decodeTableWord 16 0xD015 = some (.drw 0 1 5) := by decide
theorem test_withFetchWord_keeps_memory_canonical :
    (State.reset.withFetchWord 16 0x1200).mem = [(0x200, 0x12)] := by decide

/-! ## Witnesses: for each statement's hypotheses, a state and operands that meet them together -/

/-- The reset core as `f` changes it, with one set of quiet port values for its next cycle. -/
def quiet (f : State → State := id) : State := { f State.reset with inputs := [quietInput] }

/-- A core that fetches the word `w` at address `a`. -/
def fetching (a : Word) (w : Nat) (f : State → State := id) : State := planted a w quietInput f

theorem witness_LoadCopiesTheImageOrFaults :
    (List.replicate 3584 (0xAB#8)).length ≤ 3584 ∧ 3583 < (List.replicate 3584 (0xAB#8)).length ∧
    (List.replicate 3585 (0xAB#8)).length > 3584 := by
  simp only [List.length_replicate]; omega

theorem witness_FirstFetchReadsTheImageAtProgramBase :
    (List.replicate 3582 (0xAB#8)).length ≤ 3582 := by
  simp only [List.length_replicate]; omega

theorem witness_EmptyImageFaultsInTheFirstCycle : (boot [] (quiet)).input.stop = false := by decide

theorem witness_EncodeUndoesDecode : decodeWord 0xFF65#16 = .ok (.loadRegs 0xF) := by decide

theorem witness_StepRunsTheDecodedInstruction :
    Fetches (fetching 0xFFE 0xD015) ∧ (fetching 0xFFE 0xD015).pc.toNat + 1 < 4096 ∧
    decodeWord (wordAtPc (fetching 0xFFE 0xD015)) = .ok (.drw 0 1 5) :=
  ⟨⟨rfl, rfl, rfl⟩, by decide, by decide +kernel⟩

theorem witness_CompletedInstructionEndsItsCycle :
    Fetches (fetching 0x200 0x6A2F) ∧ (fetching 0x200 0x6A2F).pc.toNat + 1 < 4096 ∧
    decodeWord (wordAtPc (fetching 0x200 0x6A2F)) = .ok (.ldImm 0xA 0x2F) ∧
    ∃ u, exec (.ldImm 0xA 0x2F) (fetching 0x200 0x6A2F).atExecute = .next u ∧ u.status = .running :=
  ⟨⟨rfl, rfl, rfl⟩, by decide, by decide +kernel, _, rfl, rfl⟩

theorem witness_KeyWaitPollsTheKeyPort_key :
    (waiting 5 { quietInput with key := some 3 }).status = .running ∧
    (waiting 5 { quietInput with key := some 3 }).input.stop = false ∧
    (waiting 5 { quietInput with key := some 3 }).mode = .awaitingKey 5 ∧
    (waiting 5 { quietInput with key := some 3 }).input.key = some 3 := by decide

theorem witness_KeyWaitPollsTheKeyPort_none :
    (waiting 5 quietInput).status = .running ∧ (waiting 5 quietInput).input.stop = false ∧
    (waiting 5 quietInput).mode = .awaitingKey 5 ∧ (waiting 5 quietInput).input.key = none := by decide

theorem witness_KeyWaitHoldsWhileNoKeyComes :
    (waiting 5 quietInput).status = .running ∧ (waiting 5 quietInput).mode = .awaitingKey 5 ∧
    1 ≤ (waiting 5 quietInput).inputs.length ∧
    ∀ inp ∈ (waiting 5 quietInput).inputs.take 1, inp.stop = false ∧ inp.key = none := by decide

/-- 16 ms do not exceed 1/60 s and 17 ms do (R306). -/
theorem witness_TimerStepCountsDownAndBeeps :
    (quiet).out.beep = false ∧ ((quiet).acc + 16) * 60 ≤ 1000 ∧ ((quiet).acc + 17) * 60 > 1000 := by decide

theorem witness_StopRequestEndsTheCycleAtOnce :
    (waiting 5 { quietInput with stop := true }).status = .running ∧
    (waiting 5 { quietInput with stop := true }).input.stop = true := by decide

theorem witness_HaltedCoreTakesNoCycle :
    ({ State.reset with status := .stopped } : State).status ≠ .running ∧
    ({ State.reset with status := record .stackUnderflow 0x200 0x00EE } : State).status ≠ .running := by decide

theorem witness_RunningCoreAlwaysAnswersANextState : State.reset.status = .running := by decide

theorem witness_FetchPastMemoryFaults :
    Fetches (quiet (·.setPc 0xFFF)) ∧ (quiet (·.setPc 0xFFF)).pc.toNat ≥ 0xFFF := ⟨⟨rfl, rfl, rfl⟩, by decide⟩

theorem witness_UnsupportedWordFaults :
    Fetches (fetching 0xFFE 0x5121) ∧ (fetching 0xFFE 0x5121).pc.toNat + 1 < 4096 ∧
    decodeWord (wordAtPc (fetching 0xFFE 0x5121)) = .error (.unsupported (wordAtPc (fetching 0xFFE 0x5121))) :=
  ⟨⟨rfl, rfl, rfl⟩, by decide, by decide +kernel⟩

/-- A fault of the instruction, one of the fetched word, and one of the fetch itself. -/
theorem witness_FaultsArePrecise :
    (∃ t, step (fetching 0x300 0x00EE) = .next t ∧ t.status = record .stackUnderflow 0x300 0x00EE) ∧
    (∃ t, step (fetching 0xFFE 0x0000) = .next t ∧ t.status = record .unsupportedOpcode 0xFFE 0x0000) ∧
    (∃ t, step (quiet (·.setPc 0xFFF)) = .next t ∧
      t.status = .faulted { cause := .fetchOutOfBounds, pc := some 0xFFF, opcode := none, info := none }) :=
  ⟨⟨_, rfl, by decide +kernel⟩, ⟨_, rfl, by decide +kernel⟩, ⟨_, rfl, by decide +kernel⟩⟩

/-- Both sides of the equivalence: an instruction that completes and one that faults. -/
theorem witness_InstructionFaultsExactlyWhenItsCheckFails :
    State.reset.status = .running ∧ Completes State.reset .cls ∧ ¬ Completes State.reset .ret :=
  ⟨rfl, trivial, by simp [Completes, State.reset, State.resetWith]⟩

theorem witness_EveryStepKeepsTheInvariant :
    (quiet).Inv ∧ ∃ t, step (quiet) = .next t :=
  ⟨⟨by decide, by decide, by decide, by decide, fun _ h => by cases h⟩, _, rfl⟩

theorem witness_StaleStackCellsAreInvisible :
    SameButStaleStack (fetching 0x200 0x2400 (fun s => { s with sp := 1 }))
      (fetching 0x200 0x2400 (fun s => { s with sp := 1, stack := (Vector.replicate 16 7#16).set 0 0 })) := by
  refine ⟨rfl, ?_⟩
  decide +kernel

theorem witness_EachInstructionStaysInItsFootprint :
    State.reset.status = .running ∧ ∃ t, exec (.drw 0 1 5) State.reset = .next t ∧ t.status = .running :=
  ⟨rfl, _, rfl, rfl⟩

/-- A skip with another random byte, and a random byte with another key. -/
theorem witness_InstructionsReadOnlyTheirPorts :
    (quiet).inputs = quietInput :: [] ∧
    (ReadsKey (.skp 0) → quietInput.key = { quietInput with rand := 7 }.key) ∧
    (ReadsRand (.skp 0) → quietInput.rand = { quietInput with rand := 7 }.rand) ∧
    (ReadsKey (.rnd 0 1) → quietInput.key = { quietInput with key := some 7 }.key) ∧
    (ReadsRand (.rnd 0 1) → quietInput.rand = { quietInput with key := some 7 }.rand) :=
  ⟨rfl, fun _ => rfl, fun h => h.elim, fun h => h.elim, fun _ => rfl⟩

theorem witness_StepKeepsParametersAndUsesOneInput : ∃ t, step (quiet) = .next t := ⟨_, rfl⟩

theorem witness_CallPushesTheReturnAddress :
    (quiet (fun s => { s with sp := 15 })).sp.val < 16 ∧ (quiet (fun s => { s with sp := 16 })).sp.val = 16 := by decide

theorem witness_ReturnPopsTheStack :
    (quiet (fun s => { s with sp := 1 })).sp.val = (0 : Fin 16).val + 1 ∧
    (quiet (fun s => { s with sp := 16 })).sp.val = (15 : Fin 16).val + 1 ∧ (quiet).sp.val = 0 := by decide

/-- The subroutine has changed a register and I. -/
theorem witness_ReturnUndoesCall :
    (quiet).sp.val < 16 ∧ ∃ t, exec (.call 0x400) (quiet) = .next t ∧
      ((t.setReg 3 9).setI 7).sp = t.sp ∧ ∀ k : Fin 16, k.val < t.sp.val → ((t.setReg 3 9).setI 7).stack[k] = t.stack[k] :=
  ⟨by decide, _, rfl, rfl, fun _ _ => rfl⟩

/-- Both clauses of the two skips: the key of the cycle is V4, and V4 is above every key. -/
theorem witness_SkipsOnKey :
    (∃ k : Nibble, (waiting 4 { quietInput with key := some 0 }).input.key = some k ∧
      k.toNat = ((waiting 4 { quietInput with key := some 0 }).reg 4).toNat) ∧
    ¬ ∃ k : Nibble, ((waiting 4 { quietInput with key := some 0 }).setReg 4 0x10).input.key = some k ∧
      k.toNat = (((waiting 4 { quietInput with key := some 0 }).setReg 4 0x10).reg 4).toNat := by
  decide

theorem witness_CopyAndLogicAvoidTheFlag :
    ((0xE : Reg) ≠ vf ∧ (0xE : Reg) ≠ vf) ∧ ((0xF : Reg) = vf ∨ (0xE : Reg) = vf) ∧ ((0xE : Reg) = vf ∨ (0xF : Reg) = vf) := by
  decide

theorem witness_AddSetsTheCarry : (0 : Reg) ≠ vf ∧ ((regs01F 0xFF 1 0 State.reset).reg 0).toNat +
    ((regs01F 0xFF 1 0 State.reset).reg 1).toNat > 255 := by decide

theorem witness_SubtractSetsTheBorrow : (0 : Reg) ≠ vf ∧
    ((regs01F 0 1 0 State.reset).reg 1).toNat > ((regs01F 0 1 0 State.reset).reg 0).toNat := by decide

theorem witness_ShiftsMoveTheLostBitToTheFlag : (0xE : Reg) ≠ vf := by decide

theorem witness_AddToIndexIsExactOrFaults :
    ((quiet (fun s => (s.setReg 0 0xFF).setI 0xFF00)).i.toNat + ((quiet (fun s => (s.setReg 0 0xFF).setI 0xFF00)).reg 0).toNat
      ≤ 0xFFFF) ∧
    ((quiet (fun s => (s.setReg 0 1).setI 0xFFFF)).i.toNat + ((quiet (fun s => (s.setReg 0 1).setI 0xFFFF)).reg 0).toNat
      > 0xFFFF) := by decide

theorem witness_DecimalDigitsAreStored :
    (quiet (·.setI 0xFFD)).i.toNat + 2 < 4096 ∧ (quiet (·.setI 0xFFE)).i.toNat + 2 ≥ 4096 := by decide

theorem witness_RegistersAreStored :
    (quiet (·.setI 0xFF0)).i.toNat + (0xF : Reg).toNat < 4096 ∧ (0xF : Reg).toNat ≤ (0xF : Reg).toNat ∧
    (quiet (·.setI 0xFF1)).i.toNat + (0xF : Reg).toNat ≥ 4096 := by decide

theorem witness_RegistersAreLoaded :
    (quiet (·.setI 0xFFF)).i.toNat + (0 : Reg).toNat < 4096 ∧ (0 : Reg).toNat ≤ (0 : Reg).toNat ∧
    (quiet (·.setI 0x1000)).i.toNat + (0 : Reg).toNat ≥ 4096 := by decide

/-- All registers have changed in between. -/
theorem witness_LoadRestoresStoredRegisters :
    (quiet (·.setI 0xFF0)).i.toNat + (0xF : Reg).toNat < 4096 ∧
    ∃ t, exec (.storeRegs 0xF) (quiet (·.setI 0xFF0)) = .next t ∧
      ({ t with v := Vector.replicate 16 0xAA } : State).i = (quiet (·.setI 0xFF0)).i ∧
      ∀ a, ({ t with v := Vector.replicate 16 0xAA } : State).byteAt a = t.byteAt a :=
  ⟨by decide, _, rfl, rfl, fun _ => rfl⟩

/-- The two bytes are the last two that are stored. -/
theorem witness_StoreIsSeenByTheNextFetch :
    (quiet (·.setI 0x1FF)).i.toNat + (2 : Reg).toNat < 4096 ∧
    (∃ t, exec (.storeRegs 2) (quiet (·.setI 0x1FF)) = .next t) ∧
    (1 : Reg).toNat + 1 ≤ (2 : Reg).toNat ∧
    (quiet (·.setI 0x1FF)).i.toNat + (1 : Reg).toNat = (quiet (·.setI 0x1FF)).pc.toNat :=
  ⟨by decide, ⟨_, rfl⟩, by decide, by decide⟩

/-- No row, a sprite that ends at the last byte, and one that runs past it. -/
theorem witness_DrawFlipsTheCoveredPixels_bounds :
    (0 : Nibble).toNat = 0 ∧ (quiet (·.setI 0xFF1)).i.toNat + ((15 : Nibble).toNat - 1) < 4096 ∧
    ((15 : Nibble).toNat ≠ 0 ∧ (quiet (·.setI 0xFF2)).i.toNat + ((15 : Nibble).toNat - 1) ≥ 4096) := by decide

/-- A full framebuffer, where the first pixel of a glyph collides. -/
def fullScreen : State := quiet (fun s => { s with fb := ~~~0 })

theorem witness_DrawFlipsTheCoveredPixels_collision :
    ∃ px py, Covers (fun row => fullScreen.byteAt (fullScreen.i.toNat + row)) (5 : Nibble).toNat
      (originCoord fullScreen 0) (originCoord fullScreen 1) px py ∧ fullScreen.pixel px py = true :=
  ⟨0, 0, ⟨0, 0, by decide⟩, by decide +kernel⟩

theorem witness_DrawFlipsTheCoveredPixels_none :
    ¬ ∃ px py, Covers (fun row => fullScreen.byteAt (fullScreen.i.toNat + row)) (0 : Nibble).toNat
      (originCoord fullScreen 0) (originCoord fullScreen 1) px py ∧ fullScreen.pixel px py = true := by
  rintro ⟨_, _, ⟨_, _, h, _⟩, _⟩
  exact Nat.not_lt_zero _ h

theorem witness_DrawFlipsTheCoveredPixels_uncovered :
    ¬ Covers (fun row => State.reset.byteAt (State.reset.i.toNat + row)) (5 : Nibble).toNat
      (originCoord State.reset 0) (originCoord State.reset 1) 63 0 := by
  rintro ⟨row, col, _, h8, _, hx, _⟩
  have : originCoord State.reset 0 = 0 := by decide
  rw [this] at hx
  have : (0 + col) % 64 = 63 := hx
  omega

/-- The second draw is of the same glyph, on the framebuffer that the first one left. -/
theorem witness_DrawingTwiceRestoresTheFramebuffer :
    ((5 : Nibble).toNat = 0 ∨ (quiet).i.toNat + ((5 : Nibble).toNat - 1) < 4096) ∧
    ∃ t, exec (.drw 0 1 5) (quiet) = .next t ∧ ∃ u : State, u.fb = t.fb ∧
      ((5 : Nibble).toNat = 0 ∨ u.i.toNat + ((5 : Nibble).toNat - 1) < 4096) ∧
      (∀ row, row < (5 : Nibble).toNat → u.byteAt (u.i.toNat + row) = (quiet).byteAt ((quiet).i.toNat + row)) ∧
      originCoord u 0 = originCoord (quiet) 0 ∧ originCoord u 1 = originCoord (quiet) 1 := by
  have h : (5 : Nibble).toNat = 0 ∨ (quiet).i.toNat + ((5 : Nibble).toNat - 1) < 4096 := by decide
  obtain ⟨t, ht⟩ : ∃ t, exec (.drw 0 1 5) (quiet) = .next t := ⟨_, rfl⟩
  exact ⟨h, t, ht, { quiet with fb := t.fb }, rfl, h, fun _ _ => rfl, rfl, rfl⟩

theorem witness_FirstDrawAfterClearDoesNotCollide :
    ∃ t, exec .cls fullScreen = .next t ∧ (t.setI 0xFF1).fb = t.fb ∧
      ((15 : Nibble).toNat = 0 ∨ (t.setI 0xFF1).i.toNat + ((15 : Nibble).toNat - 1) < 4096) :=
  ⟨_, rfl, rfl, by decide +kernel⟩

end Sys2Proof.Tests
end

section
/-! PROOFS. Jumps and skips (`40_control_flow.md`): the target each jump computes, and the PC a skip on a comparison
leaves. -/

namespace Sys2Proof.Machine

/-- The 12-bit immediate address is widened without loss (R131). -/
@[simp] theorem addrWord_toNat (nnn : Addr) : (addrWord nnn).toNat = nnn.toNat :=
  BitVec.toNat_setWidth_of_le (by decide)

/-- At most 0xFFF + 0xFF, the sum of Bnnn fits in PC and does not wrap (R132). -/
@[simp] theorem jumpV0Target_toNat (nnn : Addr) (s : State) :
    (jumpV0Target nnn s).toNat = nnn.toNat + (s.reg 0).toNat := by
  have hn : nnn.toNat < 4096 := nnn.isLt
  have hv : (s.reg 0).toNat < 256 := (s.reg 0).isLt
  calc (jumpV0Target nnn s).toNat
      = (nnn.toNat + (s.reg 0).toNat) % 65536 := BitVec.toNat_ofNat _ _
    _ = nnn.toNat + (s.reg 0).toNat := Nat.mod_eq_of_lt (by omega)

/-- A skip on equality adds 2 to PC exactly if the two bytes are the same number (R134, R136). -/
theorem skipIf_beq_pc (s : State) (a b : Byte) :
    (skipIf (a == b) s).pc = if a.toNat = b.toNat then s.pc + 2 else s.pc := by
  simp only [skipIf_pc, beq_iff_eq, BitVec.toNat_inj]

/-- A skip on difference adds 2 to PC exactly if the two bytes are not the same number (R135, R137). -/
theorem skipIf_bne_pc (s : State) (a b : Byte) :
    (skipIf (a != b) s).pc = if a.toNat = b.toNat then s.pc else s.pc + 2 := by
  simp only [skipIf_pc, bne_iff_ne, ne_eq, ite_not, BitVec.toNat_inj]

/-- Settles O28: both jumps are `setPc`, whose frame is all but PC, with a target that is exact. -/
theorem jumpsSetThePc : Obligations.JumpsSetThePc := by
  intro s nnn
  constructor
  · exact ⟨s.setPc (addrWord nnn), rfl, addrWord_toNat nnn, keeps_setPc s _⟩
  · exact ⟨s.setPc (jumpV0Target nnn s), rfl, jumpV0Target_toNat nnn s, keeps_setPc s _⟩

/-- Settles O32: 3xnn and 4xnn are `skipIf` on the comparison of Vx with nn; VF is read like any register. -/
theorem skipsOnImmediate : Obligations.SkipsOnImmediate := by
  intro s x nn
  constructor
  · exact ⟨skipIf (s.reg x == nn) s, rfl, skipIf_beq_pc s _ _, keeps_skipIf s _⟩
  · exact ⟨skipIf (s.reg x != nn) s, rfl, skipIf_bne_pc s _ _, keeps_skipIf s _⟩

/-- Settles O33: 5xy0 and 9xy0 are `skipIf` on the comparison of Vx with Vy; x = y is no special case. -/
theorem skipsOnRegisters : Obligations.SkipsOnRegisters := by
  intro s x y
  constructor
  · exact ⟨skipIf (s.reg x == s.reg y) s, rfl, skipIf_beq_pc s _ _, keeps_skipIf s _⟩
  · exact ⟨skipIf (s.reg x != s.reg y) s, rfl, skipIf_bne_pc s _ _, keeps_skipIf s _⟩

end Sys2Proof.Machine
end

section
/-! PROOFS. Loads, immediate addition and bitwise logic (`41_alu.md`): the value written to Vx, and what the operand
invariant of 8xy0 to 8xy3 lets through or faults. -/

namespace Sys2Proof.Machine

/-- A register write leaves every other register, and every part but the registers, as it was (R21). -/
theorem setReg_frame (s : State) (x : Reg) (b : Byte) :
    KeepsRegsBut (fun r => r = x) s (s.setReg x b) ∧ KeepsAllBut [.v] s (s.setReg x b) :=
  ⟨fun _ hne => reg_setReg_ne s b hne, keeps_setReg s x b⟩

/-- With neither operand VF, a restricted instruction answers its result (R171). -/
theorem commit_guard_of_avoids (ins : Instr) {x y : Reg} (s t : State) (h : x ≠ vf ∧ y ≠ vf) :
    commit ins s (guardOperands x y t) = .next t := by
  rw [commit_guard, if_neg (not_or.mpr h)]

/-- With VF as an operand, a restricted instruction takes its fault in the state it ran in, whatever its result would
have been (R171, D6). -/
theorem commit_guard_of_flag (ins : Instr) {x y : Reg} (s t : State) (h : x = vf ∨ y = vf) :
    commit ins s (guardOperands x y t) = .next (raised ins ⟨.operandInvariant, none⟩ s) := by
  rw [commit_guard, if_pos h]

/-- Each of 8xy0 to 8xy3 raises `OperandInvariant` when an operand is VF (R174 to R177, D6). -/
theorem exec_restricted_of_flag {x y : Reg} (s : State) (h : x = vf ∨ y = vf) :
    ∀ ins ∈ [Instr.ldReg x y, Instr.orReg x y, Instr.andReg x y, Instr.xorReg x y],
      exec ins s = .next (raised ins ⟨.operandInvariant, none⟩ s) := by
  simp only [List.forall_mem_cons, List.not_mem_nil, false_implies, implies_true, and_true]
  exact ⟨commit_guard_of_flag _ _ _ h, commit_guard_of_flag _ _ _ h, commit_guard_of_flag _ _ _ h,
    commit_guard_of_flag _ _ _ h⟩

/-- Settles O35: both are one `setReg` of Vx; the byte sum of 7xnn wraps by itself. -/
theorem loadAndAddImmediate : Obligations.LoadAndAddImmediate := by
  intro s x nn
  constructor
  · exact ⟨s.setReg x nn, rfl, reg_setReg_same s x nn, setReg_frame s x _⟩
  · have hsum : ((s.setReg x (s.reg x + nn)).reg x).toNat = ((s.reg x).toNat + nn.toNat) % 256 := by
      rw [reg_setReg_same, BitVec.toNat_add]
    exact ⟨s.setReg x (s.reg x + nn), rfl, hsum, setReg_frame s x _⟩

/-- Settles O36: past the operand check each of the four is one `setReg` of Vx, and the check comes before any write. -/
theorem copyAndLogicAvoidTheFlag : Obligations.CopyAndLogicAvoidTheFlag := by
  intro s x y
  constructor
  · intro h
    refine ⟨⟨s.setReg x (s.reg y), commit_guard_of_avoids _ _ _ h, reg_setReg_same s x _, setReg_frame s x _⟩,
      ⟨s.setReg x (s.reg x ||| s.reg y), commit_guard_of_avoids _ _ _ h, ?orBits, setReg_frame s x _⟩,
      ⟨s.setReg x (s.reg x &&& s.reg y), commit_guard_of_avoids _ _ _ h, ?andBits, setReg_frame s x _⟩,
      ⟨s.setReg x (s.reg x ^^^ s.reg y), commit_guard_of_avoids _ _ _ h, ?xorBits, setReg_frame s x _⟩⟩
    case orBits => exact fun b => by rw [reg_setReg_same, BitVec.getLsbD_or]
    case andBits => exact fun b => by rw [reg_setReg_same, BitVec.getLsbD_and]
    case xorBits => exact fun b => by rw [reg_setReg_same, BitVec.getLsbD_xor]
  · intro h ins hins
    exact ⟨_, exec_restricted_of_flag s h ins hins, faultTaken_raised ins _ s⟩

end Sys2Proof.Machine
end

section
/-! PROOFS. The loads of the index register (`42_index_memory.md`): the address or glyph base each puts in I. -/

namespace Sys2Proof.Machine

/-- At most 5 * 0xFF, the glyph base of any byte, not only of one below 16, fits in I and does not wrap (R212). -/
@[simp] theorem glyphBase_toNat (b : Byte) : (glyphBase b).toNat = b.toNat * 5 := by
  have hb : b.toNat < 256 := b.isLt
  calc (glyphBase b).toNat
      = b.toNat * 5 % 65536 := BitVec.toNat_ofNat _ _
    _ = b.toNat * 5 := Nat.mod_eq_of_lt (by omega)

/-- Settles O41: both loads are `setI`, whose frame is all but I, with a value that is exact. -/
theorem indexLoadsTakeAddressOrGlyph : Obligations.IndexLoadsTakeAddressOrGlyph := by
  intro s nnn x
  constructor
  · exact ⟨s.setI (addrWord nnn), rfl, addrWord_toNat nnn, keeps_setI s _⟩
  · exact ⟨s.setI (glyphBase (s.reg x)), rfl, glyphBase_toNat (s.reg x), keeps_setI s _⟩

end Sys2Proof.Machine
end

section
/-! PROOFS. Timer access (`43_timers_keys.md`): each transfer writes its one destination, and no port. -/

namespace Sys2Proof.Machine

/-- Settles O48: each transfer is one write, of Vx, DT or ST, whose frame keeps the output ports; so no beep comes from
the instruction, whatever the value (D14). -/
theorem timerTransfers : Obligations.TimerTransfers := by
  intro s x
  refine ⟨?readDt, ?writeDt, ?writeSt⟩
  case readDt => exact ⟨s.setReg x s.dt, rfl, reg_setReg_same s x s.dt, setReg_frame s x s.dt⟩
  case writeDt => exact ⟨s.setDt (s.reg x), rfl, setDt_dt s (s.reg x), keeps_setDt s (s.reg x)⟩
  case writeSt => exact ⟨s.setSt (s.reg x), rfl, setSt_st s (s.reg x), keeps_setSt s (s.reg x)⟩

end Sys2Proof.Machine
end

section
/-! PROOFS. The framebuffer (`44_display.md`): what a pixel reads after the display is cleared. -/

namespace Sys2Proof.Machine

/-- Every pixel is a bit of the zero framebuffer, whatever was on the display before (R261). -/
@[simp] theorem clearScreen_pixel (s : State) (px : Fin 64) (py : Fin 32) : (clearScreen s).pixel px py = false := by
  rw [pixel_eq, clearScreen_fb]
  exact BitVec.getLsbD_zero

/-- Settles O50: 00E0 answers `clearScreen` of the state, which sets dirty without looking at the old framebuffer and
whose frame keeps every register, VF included. -/
theorem clearScreenClearsEveryPixel : Obligations.ClearScreenClearsEveryPixel := by
  intro s
  exact ⟨clearScreen s, rfl, clearScreen_pixel s, clearScreen_dirty s, keeps_clearScreen s⟩

end Sys2Proof.Machine
end

section
/-! PROOFS. The key wait (`60_exceptions.md`): what the timer step counts down and the key poll writes, and the cycle
of a core that awaits a key, which is the two in turn. -/

namespace Sys2Proof.Machine

/-- The floor at 0 is that of the naturals (R306). -/
@[simp] theorem countDown_toNat (b : Byte) : (countDown b).toNat = b.toNat - 1 := by
  unfold countDown
  split
  case isTrue hzero => simp [hzero]
  case isFalse hpos => bv_omega

/-- A timer that was positive counts down to 0 exactly from 1 (R307). -/
theorem countDown_reaches_zero_iff (b : Byte) : (b != 0 && countDown b == 0) = true ↔ b.toNat = 1 := by
  simp only [Bool.and_eq_true, bne_iff_ne, beq_iff_eq, ne_eq, ← BitVec.toNat_inj, countDown_toNat,
    BitVec.ofNat_eq_ofNat, BitVec.toNat_ofNat]
  omega

@[simp] theorem timerStep_refresh (s : State) : (timerStep s).out.refresh = s.out.refresh := by
  rw [timerStep_out]; split <;> rfl

@[simp] theorem timerStep_fault (s : State) : (timerStep s).out.fault = s.out.fault := by
  rw [timerStep_out]; split <;> rfl

/-- The timer step is the one R306 and R307 describe, where no beep has gone out before it in the cycle. -/
theorem timerStepped_timerStep {s : State} (hbeep : s.out.beep = false) :
    TimerStepped s.input.tickMs s (timerStep s) := by
  constructor
  · intro hle
    have hfires : timerFires (s.acc + s.input.tickMs) = false := decide_eq_false (by omega)
    simp [hfires, hbeep]
  · intro hgt
    have hfires : timerFires (s.acc + s.input.tickMs) = true := decide_eq_true hgt
    refine ⟨by simp [hfires], by simp [hfires], by simp [hfires], ?_⟩
    rw [timerStep_out, if_pos hfires, hbeep, Bool.false_or]
    exact countDown_reaches_zero_iff s.st

theorem pollKey_of_none {s : State} (r : Reg) (h : s.input.key = none) : pollKey r s = s := by
  simp [pollKey, h]

theorem pollKey_of_some {s : State} {k : Nibble} (r : Reg) (h : s.input.key = some k) :
    pollKey r s = (s.setReg r (k.setWidth 8)).setMode .fetching := by
  simp [pollKey, h]

/-- The state in which a core that awaits a key for Vr ends its cycle (R302, R304). -/
def State.afterKeyWait (s : State) (r : Reg) : State := (timerStep (pollKey r s.clearPorts)).nextInput

theorem step_keyWait {s : State} {r : Reg} (hrun : s.status = .running) (hstop : s.input.stop = false)
    (hmode : s.mode = .awaitingKey r) : step s = .next (s.afterKeyWait r) :=
  (step_running hrun).trans (cycle_wait hstop hmode)

/-- Neither the timer step nor the end of the cycle touches what the poll decides: the mode. -/
theorem afterKeyWait_mode (s : State) (r : Reg) : (s.afterKeyWait r).mode = (pollKey r s.clearPorts).mode :=
  timerStep_mode _

/-- Neither the timer step nor the end of the cycle touches what the poll writes: the registers. -/
theorem afterKeyWait_reg (s : State) (r q : Reg) : (s.afterKeyWait r).reg q = (pollKey r s.clearPorts).reg q :=
  timerStep_reg _ q

theorem afterKeyWait_of_none {s : State} {r : Reg} (hmode : s.mode = .awaitingKey r) (h : s.input.key = none) :
    (s.afterKeyWait r).mode = .awaitingKey r ∧ ∀ q, (s.afterKeyWait r).reg q = s.reg q := by
  have hpoll : pollKey r s.clearPorts = s.clearPorts := pollKey_of_none r h
  simp only [afterKeyWait_mode, afterKeyWait_reg, hpoll]
  exact ⟨hmode, fun q => clearPorts_reg s q⟩

/-- Key 0 is a key like any other (D23); a key number is widened to the byte without loss. -/
theorem afterKeyWait_of_some {s : State} {k : Nibble} (r : Reg) (h : s.input.key = some k) :
    (s.afterKeyWait r).mode = .fetching ∧ ((s.afterKeyWait r).reg r).toNat = k.toNat ∧
      KeepsRegsBut (fun q => q = r) s (s.afterKeyWait r) := by
  have hpoll : pollKey r s.clearPorts = (s.clearPorts.setReg r (k.setWidth 8)).setMode .fetching :=
    pollKey_of_some r h
  simp only [KeepsRegsBut, afterKeyWait_mode, afterKeyWait_reg, hpoll, setMode_reg, reg_setReg_same]
  exact ⟨rfl, BitVec.toNat_setWidth_of_le (by decide), fun q hq => reg_setReg_ne s.clearPorts _ hq⟩

/-- The poll leaves the timers, the accumulator and the ports alone, so the timer step is that of the cycle's start. -/
theorem timerStepped_afterKeyWait (s : State) (r : Reg) : TimerStepped s.input.tickMs s (s.afterKeyWait r) := by
  have hbeep : (pollKey r s.clearPorts).out.beep = false := by simp
  have hstep := timerStepped_timerStep hbeep
  simp only [TimerStepped, pollKey_input, pollKey_acc, pollKey_dt, pollKey_st] at hstep
  exact hstep

theorem afterKeyWait_refresh (s : State) (r : Reg) : (s.afterKeyWait r).out.refresh = none :=
  (timerStep_refresh (pollKey r s.clearPorts)).trans (by simp)

theorem afterKeyWait_fault (s : State) (r : Reg) : (s.afterKeyWait r).out.fault = none :=
  (timerStep_fault (pollKey r s.clearPorts)).trans (by simp)

/-- The frames of the cycle's four operations, one after the other. -/
theorem keeps_afterKeyWait (s : State) (r : Reg) :
    KeepsAllBut [.v, .mode, .dt, .st, .acc, .inputs, .cycles, .out] s (s.afterKeyWait r) :=
  (((keeps_clearPorts s).mono (by decide)).trans ((keeps_pollKey s.clearPorts r).mono (by decide))).trans
    (((keeps_timerStep _).mono (by decide)).trans ((keeps_nextInput _).mono (by decide)))

/-- Settles O11: the cycle polls the key on ports just cleared and takes one timer step. -/
theorem keyWaitPollsTheKeyPort : Obligations.KeyWaitPollsTheKeyPort := by
  intro s r hrun hstop hmode
  exact ⟨s.afterKeyWait r, step_keyWait hrun hstop hmode, afterKeyWait_of_none hmode,
    fun _ hkey => afterKeyWait_of_some r hkey, timerStepped_afterKeyWait s r,
    afterKeyWait_refresh s r, afterKeyWait_fault s r, keeps_afterKeyWait s r⟩

end Sys2Proof.Machine
end

section
/-! PROOFS. The boot order (`70_reset_and_hazards.md`): an image that fits is stored in the reset core from the program
base up, where the first fetch reads it. -/

namespace Sys2Proof.Machine

/-- An image that fits is one store from the program base up, with no event on the output ports (R362). -/
theorem load_of_fits {image : List Byte} (h : image.length ≤ maxProgram) (s : State) :
    load image s = (s.setBytes programBase image).clearPorts :=
  if_neg (Nat.not_lt.mpr h)

/-- What reset set stays set when the image fits: the load writes memory and clears the ports (R361, R362). -/
theorem keeps_boot_of_fits {image : List Byte} (h : image.length ≤ maxProgram) (s : State) :
    KeepsAllBut [.mem, .out] (resetCore s) (boot image s) := by
  rw [boot, load_of_fits h]
  exact ((keeps_setBytes _ _ _).mono (by decide)).trans ((keeps_clearPorts _).mono (by decide))

/-- After boot the image's bytes read back from the program base up (R362). -/
theorem boot_byteAt {image : List Byte} (h : image.length ≤ maxProgram) (s : State) {k : Nat} {b : Byte}
    (hk : image[k]? = some b) : (boot image s).byteAt (programBase + k) = b := by
  rw [boot, load_of_fits h, clearPorts_byteAt]
  exact setBytes_get _ _ _ _ _ hk

/-- Settles O3: the load keeps the status, mode and PC of reset, and PC is the address of the image's first byte. -/
theorem firstFetchReadsTheImageAtProgramBase : Obligations.FirstFetchReadsTheImageAtProgramBase := by
  intro hi lo rest s hrest
  have hfits : (hi :: lo :: rest).length ≤ maxProgram := Nat.add_le_add_right hrest 2
  have hkeep : KeepsAllBut [.mem, .out] (resetCore s) (boot (hi :: lo :: rest) s) := keeps_boot_of_fits hfits s
  have hpc : (boot (hi :: lo :: rest) s).pc = 0x200#16 := hkeep .pc (by decide)
  have haddr : (boot (hi :: lo :: rest) s).pc.toNat = 0x200 := congrArg BitVec.toNat hpc
  have hfetch : fetchWord (boot (hi :: lo :: rest) s) = .ok (wordAtPc (boot (hi :: lo :: rest) s)) :=
    fetchWord_wordAtPc (by rw [haddr]; decide)
  have hfirst : (boot (hi :: lo :: rest) s).byteAt 0x200 = hi := boot_byteAt hfits s (k := 0) rfl
  have hsecond : (boot (hi :: lo :: rest) s).byteAt (0x200 + 1) = lo := boot_byteAt hfits s (k := 1) rfl
  refine ⟨hkeep .status (by decide), hkeep .mode (by decide), hpc, ?word⟩
  case word => rw [hfetch, wordAtPc, haddr, hfirst, hsecond]

end Sys2Proof.Machine
end

section
/-! PROOFS. The opcode map (`30_encoding.md`): the decoder and the encoder undo each other, and the words that decode to
nothing are those of R97's table. -/

namespace Sys2Proof

/-! The fields of a word in each format, one by one. -/

@[simp] theorem classOf_formatNNN (c : Nibble) (nnn : Addr) : classOf (formatNNN c nnn) = c :=
  (fields_formatNNN c nnn).1

@[simp] theorem nnnOf_formatNNN (c : Nibble) (nnn : Addr) : nnnOf (formatNNN c nnn) = nnn :=
  (fields_formatNNN c nnn).2

@[simp] theorem classOf_formatXNN (c : Nibble) (x : Reg) (nn : Byte) : classOf (formatXNN c x nn) = c :=
  (fields_formatXNN c x nn).1

@[simp] theorem xOf_formatXNN (c : Nibble) (x : Reg) (nn : Byte) : xOf (formatXNN c x nn) = x :=
  (fields_formatXNN c x nn).2.1

@[simp] theorem nnOf_formatXNN (c : Nibble) (x : Reg) (nn : Byte) : nnOf (formatXNN c x nn) = nn :=
  (fields_formatXNN c x nn).2.2

@[simp] theorem classOf_formatXYN (c : Nibble) (x y : Reg) (n : Nibble) : classOf (formatXYN c x y n) = c :=
  (fields_formatXYN c x y n).1

@[simp] theorem xOf_formatXYN (c : Nibble) (x y : Reg) (n : Nibble) : xOf (formatXYN c x y n) = x :=
  (fields_formatXYN c x y n).2.1

@[simp] theorem yOf_formatXYN (c : Nibble) (x y : Reg) (n : Nibble) : yOf (formatXYN c x y n) = y :=
  (fields_formatXYN c x y n).2.2.1

@[simp] theorem nOf_formatXYN (c : Nibble) (x y : Reg) (n : Nibble) : nOf (formatXYN c x y n) = n :=
  (fields_formatXYN c x y n).2.2.2

/-- Settles O5: the top nibble of the word picks the instruction's class, the fixed low bits pick it within the class,
and the remaining fields are its operands. -/
theorem decodeUndoesEncode : Obligations.DecodeUndoesEncode := by
  intro i
  cases i with
  | cls | ret => decide
  | jp nnn | call nnn | ldI nnn | jpV0 nnn => simp [encode, decodeWord]
  | seImm x nn | sneImm x nn | ldImm x nn | addImm x nn | rnd x nn => simp [encode, decodeWord]
  | seReg x y | sneReg x y => simp [encode, decodeWord]
  | drw x y n => simp [encode, decodeWord]
  | ldReg x y | orReg x y | andReg x y | xorReg x y | addReg x y | subReg x y | shr x y | subnReg x y | shl x y =>
    simp [encode, decodeWord, decodeClass8]
  | skp x | sknp x => simp [encode, decodeWord, decodeClassE]
  | ldVxDt x | ldVxK x | ldDtVx x | ldStVx x | addI x | ldF x | ldB x | storeRegs x | loadRegs x =>
    simp [encode, decodeWord, decodeClassF]

/-! A word is rebuilt from its fields, where the fields that an instruction fixes have the fixed values. -/

theorem formatNNN_of_class {op : Word} (c : Nibble) (hc : (classOf op).toNat = c.toNat) :
    formatNNN c (nnnOf op) = op := by
  rw [← BitVec.eq_of_toNat_eq hc, formatNNN_fields]

theorem formatXNN_of_class {op : Word} (c : Nibble) (hc : (classOf op).toNat = c.toNat) :
    formatXNN c (xOf op) (nnOf op) = op := by
  rw [← BitVec.eq_of_toNat_eq hc, formatXNN_fields]

theorem formatXNN_of_class_nn {op : Word} (c : Nibble) (nn : Byte) (hc : (classOf op).toNat = c.toNat)
    (hnn : (nnOf op).toNat = nn.toNat) : formatXNN c (xOf op) nn = op := by
  rw [← BitVec.eq_of_toNat_eq hnn, formatXNN_of_class c hc]

theorem formatXYN_of_class {op : Word} (c : Nibble) (hc : (classOf op).toNat = c.toNat) :
    formatXYN c (xOf op) (yOf op) (nOf op) = op := by
  rw [← BitVec.eq_of_toNat_eq hc, formatXYN_fields]

theorem formatXYN_of_class_n {op : Word} (c n : Nibble) (hc : (classOf op).toNat = c.toNat)
    (hn : (nOf op).toNat = n.toNat) : formatXYN c (xOf op) (yOf op) n = op := by
  rw [← BitVec.eq_of_toNat_eq hn, formatXYN_of_class c hc]

theorem encode_class0 {op : Word} {i : Instr} (h : decodeClass0 op = .ok i) : encode i = op := by
  unfold decodeClass0 at h
  split at h
  · next e => cases h; exact e.symm
  · split at h
    · next e => cases h; exact e.symm
    · cases h

theorem encode_class8 {op : Word} {i : Instr} (hc : (classOf op).toNat = 8) (h : decodeClass8 op = .ok i) :
    encode i = op := by
  unfold decodeClass8 at h
  split at h <;> cases h <;> exact formatXYN_of_class_n 0x8#4 _ hc ‹_›

theorem encode_classE {op : Word} {i : Instr} (hc : (classOf op).toNat = 14) (h : decodeClassE op = .ok i) :
    encode i = op := by
  unfold decodeClassE at h
  split at h <;> cases h <;> exact formatXNN_of_class_nn 0xE#4 _ hc ‹_›

theorem encode_classF {op : Word} {i : Instr} (hc : (classOf op).toNat = 15) (h : decodeClassF op = .ok i) :
    encode i = op := by
  unfold decodeClassF at h
  split at h <;> cases h <;> exact formatXNN_of_class_nn 0xF#4 _ hc ‹_›

theorem decodeClass0_rejects_iff (op : Word) : decodeClass0 op = .error (.unsupported op) ↔
    op.toNat ≠ 0x00E0 ∧ op.toNat ≠ 0x00EE := by
  have e0 : op = 0x00E0#16 ↔ op.toNat = 0x00E0 := BitVec.toNat_inj.symm
  have ee : op = 0x00EE#16 ↔ op.toNat = 0x00EE := BitVec.toNat_inj.symm
  unfold decodeClass0
  simp only [e0, ee]
  grind

theorem decodeClass8_rejects_iff (op : Word) : decodeClass8 op = .error (.unsupported op) ↔
    op.toNat % 16 ∈ [0x8, 0x9, 0xA, 0xB, 0xC, 0xD, 0xF] := by
  unfold decodeClass8
  rw [nOf_toNat]
  split <;> simp_all
  omega

theorem decodeClassE_rejects_iff (op : Word) : decodeClassE op = .error (.unsupported op) ↔
    op.toNat % 256 ∉ [0x9E, 0xA1] := by
  unfold decodeClassE
  rw [nnOf_toNat]
  split <;> simp_all

theorem decodeClassF_rejects_iff (op : Word) : decodeClassF op = .error (.unsupported op) ↔
    op.toNat % 256 ∉ [0x07, 0x0A, 0x15, 0x18, 0x1E, 0x29, 0x33, 0x55, 0x65] := by
  unfold decodeClassF
  rw [nnOf_toNat]
  split <;> simp_all

/-- Classes 5 and 9 fix the low nibble at 0. -/
theorem guardedClass_rejects_iff (op : Word) (i : Instr) :
    (if nOf op = 0#4 then .ok i else .error (.unsupported op) : Except DecodeReject Instr) =
      .error (.unsupported op) ↔ op.toNat % 16 ≠ 0 := by
  have hn : nOf op = 0#4 ↔ op.toNat % 16 = 0 := by rw [← nOf_toNat, ← BitVec.toNat_inj]; rfl
  split <;> simp_all

/-- Settles O6: in each class the word is rebuilt from its class, its operands and the low bits that the class fixes.
Case `h_k` is class k - 1, and `h_17` no class at all. -/
theorem encodeUndoesDecode : Obligations.EncodeUndoesDecode := by
  intro op i h
  unfold decodeWord at h
  split at h
  case h_1 => exact encode_class0 h
  case h_6 hc =>
    split at h
    · next hn => cases h; exact formatXYN_of_class_n 0x5#4 0#4 hc (congrArg BitVec.toNat hn)
    · cases h
  case h_9 hc => exact encode_class8 hc h
  case h_10 hc =>
    split at h
    · next hn => cases h; exact formatXYN_of_class_n 0x9#4 0#4 hc (congrArg BitVec.toNat hn)
    · cases h
  case h_14 hc => cases h; exact formatXYN_of_class 0xD#4 hc
  case h_15 hc => exact encode_classE hc h
  case h_16 hc => exact encode_classF hc h
  case h_17 => cases h
  case h_2 hc | h_3 hc | h_11 hc | h_12 hc => cases h; exact formatNNN_of_class _ hc
  case h_4 hc | h_5 hc | h_7 hc | h_8 hc | h_13 hc => cases h; exact formatXNN_of_class _ hc

/-- Settles O7: class by class, the sub-fields that fail the class's test. Case `h_k` is class k - 1, and `h_17` no class
at all; the classes that test no sub-field reject nothing. -/
theorem rejectedWordsAreTheTabledOnes : Obligations.RejectedWordsAreTheTabledOnes := by
  intro op
  have hlt : op.toNat / 4096 < 16 := by have := op.isLt; omega
  unfold decodeWord
  rw [classOf_toNat]
  split
  case h_1 hc => rw [decodeClass0_rejects_iff]; simp [hc]
  case h_6 hc => rw [guardedClass_rejects_iff]; simp [hc]
  case h_9 hc => rw [decodeClass8_rejects_iff]; simp [hc]
  case h_10 hc => rw [guardedClass_rejects_iff]; simp [hc]
  case h_15 hc => rw [decodeClassE_rejects_iff]; simp [hc]
  case h_16 hc => rw [decodeClassF_rejects_iff]; simp [hc]
  case h_17 => grind
  all_goals next hc => simp [hc]

/-- Settles O8: thirteen fixed words, evaluated. -/
theorem sampleWordsDecode : Obligations.SampleWordsDecode := by
  unfold Obligations.SampleWordsDecode
  decide

end Sys2Proof
end

section
/-! PROOFS. Calls, returns and the skips on a key (`40_control_flow.md`): what the stack holds after a push and a pop,
and when a key matches a register. -/

namespace Sys2Proof.Machine

theorem keeps_pcSp (s : State) (sp : Fin 17) (pc : Word) : KeepsAllBut [.pc, .sp] s { s with sp := sp, pc := pc } := by
  intro p hp; cases p <;> simp_all [Part.Same, State.byteAt, State.reg]

theorem keeps_pcSpStack (s : State) (sp : Fin 17) (pc : Word) (stack : Vector Word 16) :
    KeepsAllBut [.pc, .sp, .stack] s { s with stack := stack, sp := sp, pc := pc } := by
  intro p hp; cases p <;> simp_all [Part.Same, State.byteAt, State.reg]

/-- Settles O29: below the full depth the push writes stack cell SP alone, and at depth 16 it is refused. -/
theorem callPushesTheReturnAddress : Obligations.CallPushesTheReturnAddress := by
  intro s nnn
  constructor
  · intro hroom
    refine ⟨_, execCall_pushes nnn hroom, addrWord_toNat nnn, rfl, fun k => ?cells, keeps_pcSpStack s _ _ _⟩
    case cells =>
      simp only [Fin.getElem_fin, Vector.getElem_set, eq_comm]
  · intro hfull
    exact ⟨_, execCall_full nnn hfull, faultTaken_raised _ _ s⟩

/-- Settles O30: a nonempty stack pops the cell below SP and writes no cell; an empty one refuses the pop. -/
theorem returnPopsTheStack : Obligations.ReturnPopsTheStack := by
  intro s
  constructor
  · intro k hk
    have htop : s.sp.val - 1 = k.val := by omega
    refine ⟨_, execRet_pops (by omega), ?_, htop, keeps_pcSp s _ _⟩
    simp only [htop, Fin.getElem_fin]
  · intro hempty
    exact ⟨_, execRet_empty hempty, faultTaken_raised _ _ s⟩

/-- Settles O31: the pop reads the cell that the push wrote, since the subroutine left SP and the live cells alone. -/
theorem returnUndoesCall : Obligations.ReturnUndoesCall := by
  intro s t u nnn hroom hcall hsp hcells
  obtain ⟨t', hcall', -, htsp, htcells, -⟩ := (callPushesTheReturnAddress s nnn).1 hroom
  obtain rfl : t' = t := Host.Outcome.next.inj (hcall'.symm.trans hcall)
  have husp : u.sp.val = s.sp.val + 1 := by rw [hsp, htsp]
  obtain ⟨w, hret, hwpc, hwsp, hkeep⟩ := (returnPopsTheStack u).1 ⟨s.sp.val, hroom⟩ husp
  refine ⟨w, hret, ?pc, Fin.ext hwsp, hkeep⟩
  case pc =>
    calc w.pc = u.stack[(⟨s.sp.val, hroom⟩ : Fin 16)] := hwpc
      _ = t'.stack[(⟨s.sp.val, hroom⟩ : Fin 16)] := hcells _ (by simp [htsp])
      _ = s.pc := by rw [htcells, if_pos rfl]

/-- A register matches the key that is its own number, and only where there is a key (R138, D23). -/
theorem keyMatches_iff (key : Option Nibble) (b : Byte) :
    keyMatches key b = true ↔ ∃ k : Nibble, key = some k ∧ k.toNat = b.toNat := by
  cases key <;> simp [keyMatches]

/-- Settles O34: both are `skipIf` on the match of Vx with the cycle's key, the second one on its negation. -/
theorem skipsOnKey : Obligations.SkipsOnKey := by
  intro s x
  simp only [← keyMatches_iff]
  constructor
  · refine ⟨skipIf (keyMatches s.input.key (s.reg x)) s, rfl, keeps_skipIf s _, fun h => ?_, fun h => ?_⟩
    · rw [skipIf_pc, if_pos h]
    · rw [skipIf_pc, if_neg h]
  · refine ⟨skipIf (!keyMatches s.input.key (s.reg x)) s, rfl, keeps_skipIf s _, fun h => ?_, fun h => ?_⟩
    · simp [h]
    · simp [h]

/-- Settles O49: Fx0A is one `setMode`, whose frame is all but the mode. -/
theorem keyWaitBegins : Obligations.KeyWaitBegins := by
  intro s x
  exact ⟨s.setMode (.awaitingKey x), rfl, setMode_mode s _, keeps_setMode s _⟩

end Sys2Proof.Machine
end

section
/-! PROOFS. The flag writers and the random byte (`41_alu.md`): the pair that each computes, as numbers, and the frame of
writing it. -/

namespace Sys2Proof.Machine

/-- The flag writers write Vx and VF (R23, R170). -/
theorem writeFlagged_frame (s : State) (x : Reg) (r : Flagged) :
    KeepsRegsBut (fun q => q = x ∨ q = vf) s (writeFlagged x r s) ∧ KeepsAllBut [.v] s (writeFlagged x r s) := by
  refine ⟨fun q hq => ?_, keeps_writeFlagged s x r⟩
  obtain ⟨hx, hf⟩ := not_or.mp hq
  exact writeFlagged_reg_other s r hx hf

@[simp] theorem flagByte_decide_toNat (p : Prop) [Decidable p] : (flagByte (decide p)).toNat = if p then 1 else 0 := by
  by_cases h : p <;> simp [flagByte, h]

theorem sub_toNat_int (a b : Byte) : ((a - b).toNat : Int) = (a.toNat - b.toNat : Int) % 256 := by
  rw [BitVec.toNat_sub]; have := a.isLt; have := b.isLt; omega

/-- Settles O37: VF is written after the sum, so it ends as the carry also where x is F. -/
theorem addSetsTheCarry : Obligations.AddSetsTheCarry := by
  intro s x y
  refine ⟨writeFlagged x (addCarry (s.reg x) (s.reg y)) s, rfl, fun hx => ?sum, ?carry, writeFlagged_frame s x _⟩
  case sum => rw [writeFlagged_reg_dest s _ hx]; exact BitVec.toNat_add _ _
  case carry => rw [writeFlagged_reg_vf]; exact flagByte_decide_toNat _

/-- What the two subtractions share: the difference in the destination, the borrow in VF (R179, R181). -/
theorem writeFlagged_subBorrow (s : State) (x : Reg) (a b : Byte) :
    (x ≠ vf → (((writeFlagged x (subBorrow a b) s).reg x).toNat : Int) = (a.toNat - b.toNat : Int) % 256) ∧
    ((writeFlagged x (subBorrow a b) s).reg vf).toNat = (if b.toNat > a.toNat then 1 else 0) := by
  constructor
  · intro hx; rw [writeFlagged_reg_dest s _ hx]; exact sub_toNat_int a b
  · rw [writeFlagged_reg_vf]; exact flagByte_decide_toNat _

/-- Settles O38: 8xy5 and 8xy7 are the same subtraction with the operands exchanged. -/
theorem subtractSetsTheBorrow : Obligations.SubtractSetsTheBorrow := by
  intro s x y
  obtain ⟨hsub, hborrow⟩ := writeFlagged_subBorrow s x (s.reg x) (s.reg y)
  obtain ⟨hsubn, hborrown⟩ := writeFlagged_subBorrow s x (s.reg y) (s.reg x)
  exact ⟨⟨_, rfl, hsub, hborrow, writeFlagged_frame s x _⟩, ⟨_, rfl, hsubn, hborrown, writeFlagged_frame s x _⟩⟩

/-- Halving drops bit 0, the number's remainder (R180). -/
theorem shiftRight_toNat (a : Byte) :
    (shiftRight a).value.toNat = a.toNat / 2 ∧ (flagByte (shiftRight a).flag).toNat = a.toNat % 2 := by
  constructor
  · simp [shiftRight, Nat.shiftRight_eq_div_pow]
  · have hbit : (shiftRight a).flag = decide (a.toNat % 2 = 1) := Nat.testBit_zero _
    rw [hbit, flagByte_decide_toNat]
    split <;> omega

/-- Doubling drops bit 7, which is set from 128 up (R182). -/
theorem shiftLeft_toNat (a : Byte) :
    (shiftLeft a).value.toNat = a.toNat * 2 % 256 ∧ (flagByte (shiftLeft a).flag).toNat = a.toNat / 128 := by
  have ha : a.toNat < 256 := a.isLt
  constructor
  · simp [shiftLeft, Nat.shiftLeft_eq]
  · have hbit : (shiftLeft a).flag = decide (a.toNat / 128 % 2 = 1) := Nat.testBit_eq_decide_div_mod_eq
    rw [hbit, flagByte_decide_toNat]
    split <;> omega

/-- Settles O39: the shifts read Vx alone, and VF is written after the shifted value. -/
theorem shiftsMoveTheLostBitToTheFlag : Obligations.ShiftsMoveTheLostBitToTheFlag := by
  intro s x y
  obtain ⟨hhalf, hbit0⟩ := shiftRight_toNat (s.reg x)
  obtain ⟨hdouble, hbit7⟩ := shiftLeft_toNat (s.reg x)
  constructor
  · refine ⟨writeFlagged x (shiftRight (s.reg x)) s, rfl, fun hx => ?_, ?_, writeFlagged_frame s x _⟩
    · rw [writeFlagged_reg_dest s _ hx, hhalf]
    · rw [writeFlagged_reg_vf, hbit0]
  · refine ⟨writeFlagged x (shiftLeft (s.reg x)) s, rfl, fun hx => ?_, ?_, writeFlagged_frame s x _⟩
    · rw [writeFlagged_reg_dest s _ hx, hdouble]
    · rw [writeFlagged_reg_vf, hbit7]

/-- Settles O40: Cxnn is one `setReg` of Vx with the cycle's byte under the mask. -/
theorem randomByteIsMasked : Obligations.RandomByteIsMasked := by
  intro s x nn
  refine ⟨s.setReg x (s.input.rand &&& nn), rfl, fun b => ?_, setReg_frame s x _⟩
  rw [reg_setReg_same, BitVec.getLsbD_and]

end Sys2Proof.Machine
end

section
/-! PROOFS. Fx1E and the memory transfers (`42_index_memory.md`, `20_memory.md`): what each leaves in I, in memory and in
the registers, and what a later load or fetch reads of a store. -/

namespace Sys2Proof.Machine

/-! Each of these instructions where its check passes, and where it fails. -/

theorem exec_addI_of_fits {s : State} (x : Reg) (h : s.i.toNat + (s.reg x).toNat ≤ 0xFFFF) :
    exec (.addI x) s = .next (s.setI (BitVec.ofNat 16 (s.i.toNat + (s.reg x).toNat))) := by
  refine (execAddI_eq x s).trans ?_
  rw [if_neg (by omega)]

theorem exec_addI_of_overflow {s : State} (x : Reg) (h : s.i.toNat + (s.reg x).toNat > 0xFFFF) :
    exec (.addI x) s = .next (raised (.addI x) ⟨.indexOverflow, none⟩ s) := by
  refine (execAddI_eq x s).trans ?_
  rw [if_pos h]

theorem exec_ldB_of_inBounds {s : State} (x : Reg) (h : s.i.toNat + 2 < 4096) :
    exec (.ldB x) s = .next (s.setBytes s.i.toNat (decimalDigits (s.reg x))) := by
  refine (execLdB_eq x s).trans ?_
  rw [if_pos (by omega)]

theorem exec_ldB_of_outOfBounds {s : State} (x : Reg) (h : s.i.toNat + 2 ≥ 4096) :
    exec (.ldB x) s = .next (raised (.ldB x) (boundsRaise s.i.toNat) s) := by
  refine (execLdB_eq x s).trans ?_
  rw [if_neg (by omega)]

theorem exec_storeRegs_of_inBounds {s : State} (x : Reg) (h : s.i.toNat + x.toNat < 4096) :
    exec (.storeRegs x) s = .next (s.setBytes s.i.toNat (s.regsUpTo x)) := by
  refine (execStoreRegs_eq x s).trans ?_
  rw [if_pos (by omega)]

theorem exec_storeRegs_of_outOfBounds {s : State} (x : Reg) (h : s.i.toNat + x.toNat ≥ 4096) :
    exec (.storeRegs x) s = .next (raised (.storeRegs x) (boundsRaise s.i.toNat) s) := by
  refine (execStoreRegs_eq x s).trans ?_
  rw [if_neg (by omega)]

theorem exec_loadRegs_of_inBounds {s : State} (x : Reg) (h : s.i.toNat + x.toNat < 4096) :
    exec (.loadRegs x) s = .next (s.setRegs (s.bytesFrom (x.toNat + 1))) := by
  refine (execLoadRegs_eq x s).trans ?_
  rw [if_pos (by omega)]

theorem exec_loadRegs_of_outOfBounds {s : State} (x : Reg) (h : s.i.toNat + x.toNat ≥ 4096) :
    exec (.loadRegs x) s = .next (raised (.loadRegs x) (boundsRaise s.i.toNat) s) := by
  refine (execLoadRegs_eq x s).trans ?_
  rw [if_neg (by omega)]

/-- Settles O42: the sum is written where it fits I, and the fault is taken before any write. -/
theorem addToIndexIsExactOrFaults : Obligations.AddToIndexIsExactOrFaults := by
  intro s x
  constructor
  · intro hfits
    have hsum : (BitVec.ofNat 16 (s.i.toNat + (s.reg x).toNat)).toNat = s.i.toNat + (s.reg x).toNat :=
      (BitVec.toNat_ofNat _ _).trans (Nat.mod_eq_of_lt (by omega))
    exact ⟨_, exec_addI_of_fits x hfits, hsum, keeps_setI s _⟩
  · intro hover
    exact ⟨_, exec_addI_of_overflow x hover, faultTaken_raised _ _ s⟩

/-- A digit is below 256, so the byte holds it exactly (R213). -/
theorem ofNat_digit_toNat (b : Byte) {d : Nat} (h : d ≤ b.toNat) : (BitVec.ofNat 8 d).toNat = d :=
  (BitVec.toNat_ofNat _ _).trans (Nat.mod_eq_of_lt (Nat.lt_of_le_of_lt h b.isLt))

/-- Settles O43: three bytes are stored from I up, or none. -/
theorem decimalDigitsAreStored : Obligations.DecimalDigitsAreStored := by
  intro s x
  constructor
  · intro hin
    refine ⟨_, exec_ldB_of_inBounds x hin, ?hundreds, ?tens, ?units,
      keepsBytes_setBytes s _ (decimalDigits (s.reg x)), keeps_setBytes s _ _⟩
    case hundreds =>
      exact (congrArg BitVec.toNat (setBytes_get s _ 0 _ _ rfl)).trans (ofNat_digit_toNat (s.reg x) (by omega))
    case tens =>
      exact (congrArg BitVec.toNat (setBytes_get s _ 1 _ _ rfl)).trans (ofNat_digit_toNat (s.reg x) (by omega))
    case units =>
      exact (congrArg BitVec.toNat (setBytes_get s _ 2 _ _ rfl)).trans (ofNat_digit_toNat (s.reg x) (by omega))
  · intro hout
    exact ⟨_, exec_ldB_of_outOfBounds x hout, faultTaken_raised _ _ s⟩

/-- Settles O44: the bytes stored from I up are V0 to Vx in order, or nothing is stored. -/
theorem registersAreStored : Obligations.RegistersAreStored := by
  intro s x
  constructor
  · intro hin
    refine ⟨_, exec_storeRegs_of_inBounds x hin, fun r hr => ?stored, ?outside,
      keeps_setBytes s _ _⟩
    case stored =>
      have hget := regsUpTo_get s x r.toNat hr
      rw [BitVec.ofNat_toNat, BitVec.setWidth_eq] at hget
      exact setBytes_get s _ _ _ _ hget
    case outside =>
      have hkeep := keepsBytes_setBytes s s.i.toNat (s.regsUpTo x)
      rwa [regsUpTo_length] at hkeep
  · intro hout
    exact ⟨_, exec_storeRegs_of_outOfBounds x hout, faultTaken_raised _ _ s⟩

/-- Loaded registers end at the number of bytes (R215). -/
theorem setRegs_bytesFrom_reg_above (s : State) {n : Nat} {r : Reg} (h : n ≤ r.toNat) :
    (s.setRegs (s.bytesFrom n)).reg r = s.reg r := by
  rw [reg_setRegs, List.getElem?_eq_none (by simpa using h), Option.getD_none]

/-- Settles O45: the bytes read from I up go to V0 to Vx in order, or nothing is loaded. -/
theorem registersAreLoaded : Obligations.RegistersAreLoaded := by
  intro s x
  constructor
  · intro hin
    refine ⟨_, exec_loadRegs_of_inBounds x hin, fun r hr => ?loaded, fun r hr => ?others,
      keeps_setRegs s _⟩
    case loaded => rw [reg_setRegs, bytesFrom_get s (by omega), Option.getD_some]
    case others => exact setRegs_bytesFrom_reg_above s (by omega)
  · intro hout
    exact ⟨_, exec_loadRegs_of_outOfBounds x hout, faultTaken_raised _ _ s⟩

/-- Settles O46: the load reads at I + r the byte that the store wrote there. -/
theorem loadRestoresStoredRegisters : Obligations.LoadRestoresStoredRegisters := by
  intro s t u x hin hstore hi hmem
  obtain ⟨t', hstore', hstored, -, -⟩ := (registersAreStored s x).1 hin
  obtain rfl : t' = t := Host.Outcome.next.inj (hstore'.symm.trans hstore)
  obtain ⟨w, hload, hloaded, -, -⟩ := (registersAreLoaded u x).1 (by rwa [hi])
  refine ⟨w, hload, fun r hr => ?_⟩
  calc w.reg r = u.byteAt (u.i.toNat + r.toNat) := hloaded r hr
    _ = t'.byteAt (s.i.toNat + r.toNat) := by rw [hi, hmem]
    _ = s.reg r := hstored r hr

/-- Settles O47: PC is kept by the store, and both bytes that the fetch reads there are stored registers. -/
theorem storeIsSeenByTheNextFetch : Obligations.StoreIsSeenByTheNextFetch := by
  intro s t x k hin hstore hk hpc
  obtain ⟨t', hstore', hstored, -, hkeep⟩ := (registersAreStored s x).1 hin
  obtain rfl : t' = t := Host.Outcome.next.inj (hstore'.symm.trans hstore)
  have htpc : t'.pc.toNat = s.i.toNat + k.toNat := by rw [hpc, hkeep .pc (by decide)]
  have hsucc : (k + 1).toNat = k.toNat + 1 := by
    have := x.isLt
    bv_omega
  have hhigh : t'.byteAt (s.i.toNat + k.toNat) = s.reg k := hstored k (by omega)
  have hlow : t'.byteAt (s.i.toNat + k.toNat + 1) = s.reg (k + 1) := by
    rw [Nat.add_assoc, ← hsucc]; exact hstored (k + 1) (by omega)
  rw [fetchWord_wordAtPc (by omega), wordAtPc, htpc, hhigh, hlow]

end Sys2Proof.Machine
end

section
/-! PROOFS. The sprite draw (`44_display.md`): the pixels and VF that Dxyn leaves, in terms of the pixels its sprite
covers, and what a second draw and a draw on a clear screen find. -/

namespace Sys2Proof.Machine

/-- The state Dxyn leaves when its sprite can be read whole. -/
def State.drawn (s : State) (x y : Reg) (n : Nibble) : State :=
  drawSprite (originCoord s x) (originCoord s y) (s.bytesFrom n.toNat) s

theorem exec_drw_readable {s : State} {n : Nibble} (x y : Reg)
    (h : n.toNat = 0 ∨ s.i.toNat + (n.toNat - 1) < 4096) : exec (.drw x y n) s = .next (s.drawn x y n) := by
  have hin : n.toNat = 0 ∨ s.i.toNat + n.toNat ≤ 4096 := by omega
  refine (execDrw_eq x y n s).trans ?_
  rw [if_pos hin, originCoord_eq, originCoord_eq, State.drawn]

theorem exec_drw_unreadable {s : State} {n : Nibble} (x y : Reg)
    (h : n.toNat ≠ 0 ∧ s.i.toNat + (n.toNat - 1) ≥ 4096) :
    exec (.drw x y n) s = .next (raised (.drw x y n) (boundsRaise s.i.toNat) s) := by
  refine (execDrw_eq x y n s).trans ?_
  rw [if_neg (by omega)]

/-- The sprite of Dxyn, drawn from `s`, covers the pixel (R262). -/
def State.DrawCovers (s : State) (x y : Reg) (n : Nibble) (px : Fin 64) (py : Fin 32) : Prop :=
  Covers (fun row => s.byteAt (s.i.toNat + row)) n.toNat (originCoord s x) (originCoord s y) px py

theorem drawCovers_iff (s : State) (x y : Reg) (n : Nibble) (px : Fin 64) (py : Fin 32) :
    s.DrawCovers x y n px py ↔
      RowsMeet (originCoord s x) (originCoord s y) (s.bytesFrom n.toNat) (pixelIndex px.val py.val) :=
  covers_iff s _ _ _ px py

/-- A sprite has at most 15 rows, so no two of them wrap onto the same screen row. -/
theorem bytesFrom_nibble_length_le (s : State) (n : Nibble) : (s.bytesFrom n.toNat).length ≤ 32 := by
  have := n.isLt
  rw [bytesFrom_length]; omega

theorem drawn_pixel_covered {s : State} {x y : Reg} {n : Nibble} {px : Fin 64} {py : Fin 32}
    (h : s.DrawCovers x y n px py) : (s.drawn x y n).pixel px py = !s.pixel px py := by
  rw [pixel_eq, pixel_eq]
  exact (drawRows_spec _ _ _ (bytesFrom_nibble_length_le s n) _).1 _ ((drawCovers_iff ..).1 h)

theorem drawn_pixel_uncovered {s : State} {x y : Reg} {n : Nibble} {px : Fin 64} {py : Fin 32}
    (h : ¬ s.DrawCovers x y n px py) : (s.drawn x y n).pixel px py = s.pixel px py := by
  rw [pixel_eq, pixel_eq]
  exact (drawRows_spec _ _ _ (bytesFrom_nibble_length_le s n) _).2.1 _ (mt (drawCovers_iff ..).2 h)

/-- A covered pixel was set before the draw (R264). -/
def State.Collides (s : State) (x y : Reg) (n : Nibble) : Prop :=
  ∃ px py, s.DrawCovers x y n px py ∧ s.pixel px py = true

theorem drawRows_hit_iff (s : State) (x y : Reg) (n : Nibble) :
    (drawRows (originCoord s x) (originCoord s y) (s.bytesFrom n.toNat) { fb := s.fb, hit := false }).hit = true ↔
      s.Collides x y n := by
  obtain ⟨-, -, hhit⟩ := drawRows_spec (originCoord s x) (originCoord s y) _ (bytesFrom_nibble_length_le s n)
    { fb := s.fb, hit := false }
  rw [hhit]
  constructor
  · rintro (h | ⟨p, hmeet, hset⟩)
    · cases h
    · obtain ⟨px, py, rfl⟩ := rowsMeet_pixel hmeet
      exact ⟨px, py, (drawCovers_iff ..).2 hmeet, (pixel_eq s px py).trans hset⟩
  · rintro ⟨px, py, hcov, hset⟩
    exact .inr ⟨_, (drawCovers_iff ..).1 hcov, (pixel_eq s px py).symm.trans hset⟩

theorem drawn_vf_of_collides {s : State} {x y : Reg} {n : Nibble} (h : s.Collides x y n) :
    (s.drawn x y n).reg vf = 1 := by
  rw [State.drawn, drawSprite_reg_vf, (drawRows_hit_iff s x y n).2 h]; rfl

theorem drawn_vf_of_not_collides {s : State} {x y : Reg} {n : Nibble} (h : ¬ s.Collides x y n) :
    (s.drawn x y n).reg vf = 0 := by
  rw [State.drawn, drawSprite_reg_vf, Bool.eq_false_iff.2 (mt (drawRows_hit_iff s x y n).1 h)]; rfl

theorem drawn_vf_eq_one_iff (s : State) (x y : Reg) (n : Nibble) :
    (s.drawn x y n).reg vf = 1 ↔ s.Collides x y n := by
  refine ⟨fun h => ?_, drawn_vf_of_collides⟩
  by_contra hnot
  rw [drawn_vf_of_not_collides hnot] at h
  exact absurd h (by decide)

/-- Settles O51: the draw is the XOR of the covered pixels; out of bounds nothing is drawn. -/
theorem drawFlipsTheCoveredPixels : Obligations.DrawFlipsTheCoveredPixels := by
  intro s x y n
  constructor
  · intro hin
    exact ⟨s.drawn x y n, exec_drw_readable x y hin, fun px py => ⟨drawn_pixel_covered, drawn_pixel_uncovered⟩,
      drawn_vf_of_collides, drawn_vf_of_not_collides, rfl, fun r hr => drawSprite_reg_other s _ _ _ hr,
      keeps_drawSprite s _ _ _⟩
  · intro hout
    exact ⟨_, exec_drw_unreadable x y hout, faultTaken_raised _ _ s⟩

/-- A framebuffer is the pixels it holds. -/
theorem fb_ext {s t : State} (h : ∀ px py, s.pixel px py = t.pixel px py) : s.fb = t.fb := by
  apply BitVec.eq_of_getLsbD_eq
  intro p hp
  have hx : p % 64 < 64 := by omega
  have hy : p / 64 < 32 := by omega
  have hpix := h ⟨p % 64, hx⟩ ⟨p / 64, hy⟩
  simp only [State.pixel] at hpix
  rwa [show p / 64 * 64 + p % 64 = p by omega] at hpix

theorem pixel_congr {s t : State} (h : t.fb = s.fb) (px : Fin 64) (py : Fin 32) : t.pixel px py = s.pixel px py := by
  rw [State.pixel, State.pixel, h]

/-- The pixels covered depend on the sprite's bytes and its coordinates alone (R262). -/
theorem drawCovers_congr {s u : State} {x y x' y' : Reg} {n : Nibble}
    (hbytes : ∀ row, row < n.toNat → u.byteAt (u.i.toNat + row) = s.byteAt (s.i.toNat + row))
    (hx : originCoord u x' = originCoord s x) (hy : originCoord u y' = originCoord s y) (px : Fin 64) (py : Fin 32) :
    u.DrawCovers x' y' n px py ↔ s.DrawCovers x y n px py := by
  have hsprite : u.bytesFrom n.toNat = s.bytesFrom n.toNat :=
    List.map_congr_left fun row hrow => hbytes row (List.mem_range.1 hrow)
  rw [drawCovers_iff, drawCovers_iff, hsprite, hx, hy]

/-- Settles O52: a pixel that both draws cover is flipped twice, and the second draw finds it set where it was clear. -/
theorem drawingTwiceRestoresTheFramebuffer : Obligations.DrawingTwiceRestoresTheFramebuffer := by
  intro s t u x y x' y' n hin hdraw hfb hin' hbytes hx hy
  obtain rfl : s.drawn x y n = t := Host.Outcome.next.inj ((exec_drw_readable x y hin).symm.trans hdraw)
  have hcov : ∀ px py, u.DrawCovers x' y' n px py ↔ s.DrawCovers x y n px py := drawCovers_congr hbytes hx hy
  have hpix : ∀ px py, u.pixel px py = (s.drawn x y n).pixel px py := pixel_congr hfb
  refine ⟨u.drawn x' y' n, exec_drw_readable x' y' hin', fb_ext fun px py => ?restored, ?flag⟩
  case restored =>
    by_cases h : s.DrawCovers x y n px py
    · rw [drawn_pixel_covered ((hcov px py).2 h), hpix, drawn_pixel_covered h, Bool.not_not]
    · rw [drawn_pixel_uncovered (mt (hcov px py).1 h), hpix, drawn_pixel_uncovered h]
  case flag =>
    rw [drawn_vf_eq_one_iff]
    refine exists_congr fun px => exists_congr fun py => ?_
    rw [hcov]
    refine and_congr_right fun h => ?_
    rw [hpix, drawn_pixel_covered h, Bool.not_eq_true']

/-- Settles O53: on a framebuffer without a set pixel no covered pixel was set. -/
theorem firstDrawAfterClearDoesNotCollide : Obligations.FirstDrawAfterClearDoesNotCollide := by
  intro s t u x y n hcls hfb hin
  obtain rfl : clearScreen s = t := Host.Outcome.next.inj hcls
  refine ⟨u.drawn x y n, exec_drw_readable x y hin, drawn_vf_of_not_collides ?_⟩
  rintro ⟨px, py, -, hset⟩
  rw [pixel_congr hfb, clearScreen_pixel] at hset
  cases hset

end Sys2Proof.Machine
end

section
/-! PROOFS. What `exec` can do, said once for all instructions: where its check passes an instruction changes PC and its
footprint alone, and where it fails it takes a fault in the state it ran in (`60_exceptions.md` R310, R319). -/

namespace Sys2Proof.Machine

/-- From `s` to `t` nothing but PC, the instruction's footprint and the registers it writes has changed. -/
def StaysInFootprint (ins : Instr) (s t : State) : Prop :=
  KeepsAllBut (.pc :: Footprint ins) s t ∧ KeepsRegsBut (fun r => WritesReg r ins) s t

/-- An update that touches no register stays in every footprint that has its parts. -/
theorem staysInFootprint_of_keepsRegs {ins : Instr} {ps : List Part} {s t : State} (h : KeepsAllBut ps s t)
    (hsub : ∀ p ∈ ps, p ∈ .pc :: Footprint ins := by simp [Footprint]) (hv : .v ∉ ps := by decide) :
    StaysInFootprint ins s t :=
  ⟨h.mono hsub, fun r _ => h .v hv r⟩

/-- An update of registers alone stays in the footprint of an instruction that writes them. -/
theorem staysInFootprint_of_regs {ins : Instr} {P : Reg → Prop} {s t : State}
    (h : KeepsRegsBut P s t ∧ KeepsAllBut [.v] s t) (hv : .v ∈ Footprint ins := by simp [Footprint])
    (hP : ∀ r, P r → WritesReg r ins := by exact fun _ => id) : StaysInFootprint ins s t :=
  ⟨h.2.mono (by simp [hv]), fun r hr => h.1 r (mt (hP r) hr)⟩

/-- SP is at most 16, so a call that is not refused has a cell left (R31, R133). -/
theorem sp_lt_of_completes_call {s : State} {nnn : Addr} (h : Completes s (.call nnn)) : s.sp.val < 16 :=
  Nat.lt_of_le_of_ne (Nat.le_of_lt_succ s.sp.isLt) h

/-- An instruction whose check passes answers a state that stays in its footprint (R23, R31 to R42). -/
theorem exec_of_completes {ins : Instr} {s : State} (h : Completes s ins) :
    ∃ t, exec ins s = .next t ∧ StaysInFootprint ins s t := by
  cases ins with
  | cls => exact ⟨_, rfl, staysInFootprint_of_keepsRegs (keeps_clearScreen s)⟩
  | ret => exact ⟨_, execRet_pops (Nat.pos_of_ne_zero h), staysInFootprint_of_keepsRegs (keeps_pcSp s _ _)⟩
  | call nnn =>
    exact ⟨_, execCall_pushes nnn (sp_lt_of_completes_call h), staysInFootprint_of_keepsRegs (keeps_pcSpStack s _ _ _)⟩
  | jp nnn | jpV0 nnn => exact ⟨_, rfl, staysInFootprint_of_keepsRegs (keeps_setPc s _)⟩
  | seImm x a | sneImm x a | seReg x a | sneReg x a =>
    exact ⟨_, rfl, staysInFootprint_of_keepsRegs (keeps_skipIf s _)⟩
  | skp x | sknp x => exact ⟨_, rfl, staysInFootprint_of_keepsRegs (keeps_skipIf s _)⟩
  | ldImm x a | addImm x a | rnd x a => exact ⟨_, rfl, staysInFootprint_of_regs (setReg_frame s x _)⟩
  | ldVxDt x => exact ⟨_, rfl, staysInFootprint_of_regs (setReg_frame s x _)⟩
  | ldReg x y | orReg x y | andReg x y | xorReg x y =>
    exact ⟨_, commit_guard_of_avoids _ _ _ h, staysInFootprint_of_regs (setReg_frame s x _)⟩
  | addReg x y | subReg x y | shr x y | subnReg x y | shl x y =>
    exact ⟨_, rfl, staysInFootprint_of_regs (writeFlagged_frame s x _)⟩
  | ldI nnn => exact ⟨_, rfl, staysInFootprint_of_keepsRegs (keeps_setI s _)⟩
  | ldF x => exact ⟨_, rfl, staysInFootprint_of_keepsRegs (keeps_setI s _)⟩
  | addI x => exact ⟨_, exec_addI_of_fits x h, staysInFootprint_of_keepsRegs (keeps_setI s _)⟩
  | drw x y n =>
    exact ⟨_, exec_drw_readable x y h, (keeps_drawSprite s _ _ _).mono (by simp [Footprint]),
      fun r hr => drawSprite_reg_other s _ _ _ hr⟩
  | ldVxK x => exact ⟨_, rfl, staysInFootprint_of_keepsRegs (keeps_setMode s _)⟩
  | ldDtVx x => exact ⟨_, rfl, staysInFootprint_of_keepsRegs (keeps_setDt s _)⟩
  | ldStVx x => exact ⟨_, rfl, staysInFootprint_of_keepsRegs (keeps_setSt s _)⟩
  | ldB x => exact ⟨_, exec_ldB_of_inBounds x h, staysInFootprint_of_keepsRegs (keeps_setBytes s _ _)⟩
  | storeRegs x => exact ⟨_, exec_storeRegs_of_inBounds x h, staysInFootprint_of_keepsRegs (keeps_setBytes s _ _)⟩
  | loadRegs x =>
    obtain ⟨t, ht, -, hregs, hkeep⟩ := (registersAreLoaded s x).1 h
    exact ⟨t, ht, staysInFootprint_of_regs ⟨hregs, hkeep⟩⟩

/-- An instruction whose check fails takes a fault in the state it ran in (R310, R319). -/
theorem exec_of_not_completes {ins : Instr} {s : State} (h : ¬ Completes s ins) :
    ∃ e, exec ins s = .next (raised ins e s) := by
  cases ins with
  | ret => exact ⟨_, execRet_empty (not_not.mp h)⟩
  | call nnn => exact ⟨_, execCall_full nnn (not_not.mp h)⟩
  | ldReg x y | orReg x y | andReg x y | xorReg x y =>
    have hflag : x = vf ∨ y = vf := (not_and_or.mp h).imp not_not.mp not_not.mp
    exact ⟨_, exec_restricted_of_flag s hflag _ (by simp)⟩
  | addI x => exact ⟨_, exec_addI_of_overflow x (Nat.lt_of_not_le h)⟩
  | ldB x => exact ⟨_, exec_ldB_of_outOfBounds x (Nat.le_of_not_lt h)⟩
  | storeRegs x => exact ⟨_, exec_storeRegs_of_outOfBounds x (Nat.le_of_not_lt h)⟩
  | loadRegs x => exact ⟨_, exec_loadRegs_of_outOfBounds x (Nat.le_of_not_lt h)⟩
  | drw x y n =>
    obtain ⟨hrows, hend⟩ := not_or.mp h
    exact ⟨_, exec_drw_unreadable x y ⟨hrows, Nat.le_of_not_lt hend⟩⟩
  | cls | jp _ | seImm _ _ | sneImm _ _ | seReg _ _ | ldImm _ _ | addImm _ _ | addReg _ _ | subReg _ _ | shr _ _
  | subnReg _ _ | shl _ _ | sneReg _ _ | ldI _ | jpV0 _ | rnd _ _ | skp _ | sknp _ | ldVxDt _ | ldVxK _ | ldDtVx _
  | ldStVx _ | ldF _ => exact absurd trivial h

/-- No instruction touches the accumulator, the status, a parameter or a port. -/
theorem StaysInFootprint.keepsRest {ins : Instr} {s t : State} (h : StaysInFootprint ins s t) :
    KeepsAllBut [.mem, .v, .i, .pc, .sp, .stack, .dt, .st, .fb, .dirty, .mode] s t :=
  h.1.mono (by cases ins <;> simp [Footprint])

/-- The one inversion of `exec`: the check passes and the answer stays in the footprint, or it fails and the answer is
the fault. -/
theorem exec_cases (ins : Instr) (s : State) :
    (Completes s ins ∧ ∃ t, exec ins s = .next t ∧ StaysInFootprint ins s t) ∨
    (¬ Completes s ins ∧ ∃ e, exec ins s = .next (raised ins e s)) := by
  by_cases h : Completes s ins
  · exact .inl ⟨h, exec_of_completes h⟩
  · exact .inr ⟨h, exec_of_not_completes h⟩

/-- Settles O20: a completed instruction keeps the status, and a fault leaves it Faulted. -/
theorem instructionFaultsExactlyWhenItsCheckFails : Obligations.InstructionFaultsExactlyWhenItsCheckFails := by
  intro ins s hrun
  rcases exec_cases ins s with ⟨hc, t, ht, hstay⟩ | ⟨hc, e, ht⟩
  · have hstatus : t.status = .running := (hstay.keepsRest .status (by decide)).trans hrun
    exact ⟨t, ht, iff_of_true hstatus hc⟩
  · exact ⟨_, ht, iff_of_false (by simp) hc⟩

/-- Settles O25: an instruction that ends Running has not taken the fault. -/
theorem eachInstructionStaysInItsFootprint : Obligations.EachInstructionStaysInItsFootprint := by
  intro ins s t _ hexec hrun
  rcases exec_cases ins s with ⟨-, t', ht, hstay⟩ | ⟨-, e, ht⟩
  · obtain rfl : t' = t := Host.Outcome.next.inj (ht.symm.trans hexec)
    exact hstay
  · obtain rfl : raised ins e s = t := Host.Outcome.next.inj (ht.symm.trans hexec)
    cases hrun

/-- Every instruction answers a next state, and none touches the accumulator, a parameter or the input queue. -/
theorem exec_answers (ins : Instr) (s : State) : ∃ t, exec ins s = .next t ∧
    t.acc = s.acc ∧ t.params = s.params ∧ t.inputs = s.inputs ∧ t.cycles = s.cycles := by
  rcases exec_cases ins s with ⟨-, t, ht, hstay⟩ | ⟨-, e, ht⟩
  · have hrest := hstay.keepsRest
    exact ⟨t, ht, hrest .acc (by decide), hrest .params (by decide), hrest .inputs (by decide),
      hrest .cycles (by decide)⟩
  · exact ⟨_, ht, rfl, rfl, rfl, rfl⟩

/-- RET and CALL are the two instructions to look at where the stack matters. -/
theorem ret_or_call_or_other (ins : Instr) :
    ins = .ret ∨ (∃ nnn, ins = .call nnn) ∨ (ins ≠ .ret ∧ ∀ nnn, ins ≠ .call nnn) := by
  cases ins <;> simp

/-- Only RET and CALL touch the stack (R31, R32). -/
theorem exec_keeps_stack {ins : Instr} {s t : State} (hret : ins ≠ .ret) (hcall : ∀ nnn, ins ≠ .call nnn)
    (h : exec ins s = .next t) : t.sp = s.sp ∧ t.stack = s.stack := by
  rcases exec_cases ins s with ⟨-, t', ht, hstay, -⟩ | ⟨-, e, ht⟩
  · obtain rfl : t' = t := Host.Outcome.next.inj (ht.symm.trans h)
    have hfoot : Part.sp ∉ .pc :: Footprint ins ∧ Part.stack ∉ .pc :: Footprint ins := by
      cases ins <;> simp_all [Footprint]
    exact ⟨hstay .sp hfoot.1, hstay .stack hfoot.2⟩
  · obtain rfl : raised ins e s = t := Host.Outcome.next.inj (ht.symm.trans h)
    exact ⟨rfl, rfl⟩

end Sys2Proof.Machine
end

section
/-! PROOFS. What no instruction looks at: the ports that R300 does not give it and, RET and CALL apart, the stack. Such an
instruction answers the same from two states that differ there, up to that difference. -/

namespace Sys2Proof.Machine

/-- `s` with another input queue and another stack. -/
def State.withQueueAndStack (q : List Input) (σ : Vector Word 16) (s : State) : State :=
  { s with inputs := q, stack := σ }

section
variable (q : List Input) (σ : Vector Word 16)

theorem skipIf_withQueueAndStack (b : Bool) (s : State) :
    skipIf b (s.withQueueAndStack q σ) = (skipIf b s).withQueueAndStack q σ := by
  cases b <;> rfl

/-- An instruction that answers one of two states by a test carries the queue and the stack into its answer, if the test
does not read them. -/
theorem exec_ite_withQueueAndStack {ins : Instr} {c : Prop} [Decidable c] {s a b t : State}
    (hs : exec ins s = .next (if c then a else b))
    (hs' : exec ins (s.withQueueAndStack q σ) =
      .next (if c then a.withQueueAndStack q σ else b.withQueueAndStack q σ))
    (h : exec ins s = .next t) : exec ins (s.withQueueAndStack q σ) = .next (t.withQueueAndStack q σ) := by
  obtain rfl : (if c then a else b) = t := Host.Outcome.next.inj (hs.symm.trans h)
  rw [hs', apply_ite (State.withQueueAndStack q σ)]

/-- An instruction other than RET and CALL carries along a stack and an input queue in which it reads the same ports
(R44, R300). -/
theorem exec_withQueueAndStack {ins : Instr} {s t : State} (hret : ins ≠ .ret) (hcall : ∀ nnn, ins ≠ .call nnn)
    (hkey : ReadsKey ins → (s.withQueueAndStack q σ).input.key = s.input.key)
    (hrand : ReadsRand ins → (s.withQueueAndStack q σ).input.rand = s.input.rand) (h : exec ins s = .next t) :
    exec ins (s.withQueueAndStack q σ) = .next (t.withQueueAndStack q σ) := by
  cases ins with
  | ret => exact absurd rfl hret
  | call nnn => exact absurd rfl (hcall nnn)
  | seImm x a | sneImm x a | seReg x a | sneReg x a => cases h; exact congrArg _ (skipIf_withQueueAndStack q σ _ s)
  | skp x | sknp x =>
    cases h
    refine Eq.trans ?_ (congrArg _ (skipIf_withQueueAndStack q σ _ s))
    simp only [exec, execSkp, execSknp, hkey trivial]; rfl
  | rnd x nn => cases h; simp only [exec, execRnd, hrand trivial]; rfl
  | ldReg x y => exact exec_ite_withQueueAndStack q σ (execLdReg_eq x y s) (execLdReg_eq x y _) h
  | orReg x y => exact exec_ite_withQueueAndStack q σ (execOrReg_eq x y s) (execOrReg_eq x y _) h
  | andReg x y => exact exec_ite_withQueueAndStack q σ (execAndReg_eq x y s) (execAndReg_eq x y _) h
  | xorReg x y => exact exec_ite_withQueueAndStack q σ (execXorReg_eq x y s) (execXorReg_eq x y _) h
  | addI x => exact exec_ite_withQueueAndStack q σ (execAddI_eq x s) (execAddI_eq x _) h
  | ldB x => exact exec_ite_withQueueAndStack q σ (execLdB_eq x s) (execLdB_eq x _) h
  | storeRegs x => exact exec_ite_withQueueAndStack q σ (execStoreRegs_eq x s) (execStoreRegs_eq x _) h
  | loadRegs x => exact exec_ite_withQueueAndStack q σ (execLoadRegs_eq x s) (execLoadRegs_eq x _) h
  | drw x y n => exact exec_ite_withQueueAndStack q σ (execDrw_eq x y n s) (execDrw_eq x y n _) h
  | cls | jp _ | ldImm _ _ | addImm _ _ | addReg _ _ | subReg _ _ | shr _ _ | subnReg _ _ | shl _ _ | ldI _ | jpV0 _
  | ldVxDt _ | ldVxK _ | ldDtVx _ | ldStVx _ | ldF _ => cases h; rfl

end

/-- RET pops the same cell whatever the input queue. -/
theorem exec_ret_withInputs {s t : State} (q : List Input) (h : exec .ret s = .next t) :
    exec .ret { s with inputs := q } = .next { t with inputs := q } := by
  by_cases hempty : s.sp.val = 0
  · cases (execRet_empty hempty).symm.trans h
    exact execRet_empty (s := { s with inputs := q }) hempty
  · cases (execRet_pops (Nat.pos_of_ne_zero hempty)).symm.trans h
    exact execRet_pops (s := { s with inputs := q }) (Nat.pos_of_ne_zero hempty)

/-- CALL pushes the same cell whatever the input queue. -/
theorem exec_call_withInputs {s t : State} {nnn : Addr} (q : List Input) (h : exec (.call nnn) s = .next t) :
    exec (.call nnn) { s with inputs := q } = .next { t with inputs := q } := by
  by_cases hroom : s.sp.val < 16
  · cases (execCall_pushes nnn hroom).symm.trans h
    exact execCall_pushes (s := { s with inputs := q }) nnn hroom
  · have hfull : s.sp.val = 16 := by omega
    cases (execCall_full nnn hfull).symm.trans h
    exact execCall_full (s := { s with inputs := q }) nnn hfull

/-- The answer carries an input queue along in which the instruction reads the same ports (R300). -/
theorem exec_withInputs {ins : Instr} {s t : State} (q : List Input)
    (hkey : ReadsKey ins → ({ s with inputs := q } : State).input.key = s.input.key)
    (hrand : ReadsRand ins → ({ s with inputs := q } : State).input.rand = s.input.rand) (h : exec ins s = .next t) :
    exec ins { s with inputs := q } = .next { t with inputs := q } := by
  rcases ret_or_call_or_other ins with rfl | ⟨nnn, rfl⟩ | ⟨hret, hcall⟩
  · exact exec_ret_withInputs q h
  · exact exec_call_withInputs q h
  · have hstack : t.stack = s.stack := (exec_keeps_stack hret hcall h).2
    have hnext : exec ins { s with inputs := q } = .next { t with inputs := q, stack := s.stack } :=
      exec_withQueueAndStack q s.stack hret hcall hkey hrand h
    rw [hnext, ← hstack]

/-- Settles O26: the head of the queue is the cycle's port values, so the answers differ in the queue alone. -/
theorem instructionsReadOnlyTheirPorts : Obligations.InstructionsReadOnlyTheirPorts := by
  intro ins s a b rest hq hkey hrand
  have hinput : s.input = a := by rw [State.input, hq]
  obtain ⟨t, ht, -⟩ := exec_answers ins s
  have hu := exec_withInputs (b :: rest) (fun hk => by rw [hinput, hkey hk]; rfl)
    (fun hr => by rw [hinput, hrand hr]; rfl) ht
  rw [ht, hu]
  exact rfl

end Sys2Proof.Machine
end

section
/-! PROOFS. The cycle (`60_exceptions.md`): what the fetch leads to, said once, and from it what a step does when it runs
an instruction, when it faults, and when it stops. -/

namespace Sys2Proof.Machine

theorem step_fetches {s : State} (h : Fetches s) : step s = closeFetching (fetchAndExecute s.clearPorts) := by
  obtain ⟨hrun, hstop, hmode⟩ := h
  rw [step_running hrun, cycle_fetching hstop hmode]

/-- The opcode of a cycle's fault record: the word at PC where one can be fetched (R310). -/
def fetchedOpcode (s : State) : Option Word := if s.pc.toNat + 1 < 4096 then some (wordAtPc s) else none

/-- A fetch runs an instruction that completes, or ends in a fault of the cycle's own fetch (R101, R310, R319). -/
theorem fetchAndExecute_cases (s : State) :
    (∃ ins u, Completes s.advance ins ∧ fetchAndExecute s = .next u ∧ exec ins s.advance = .next u ∧
      StaysInFootprint ins s.advance u ∧ s.pc.toNat + 1 < 4096) ∨
    (∃ e, fetchAndExecute s = .next (takeFault s.pc (fetchedOpcode s) e s)) := by
  by_cases hpc : s.pc.toNat + 1 < 4096
  · have hop : fetchedOpcode s = some (wordAtPc s) := if_pos hpc
    have hfetch := fetchWord_wordAtPc hpc
    cases hdec : decodeWord (wordAtPc s) with
    | error e => exact .inr ⟨_, by rw [hop]; exact fetch_unsupported hfetch hdec⟩
    | ok ins =>
      have hexec := fetch_executes hfetch hdec
      rcases exec_cases ins s.advance with ⟨hc, u, hu, hstay⟩ | ⟨-, e, hu⟩
      · exact .inl ⟨ins, u, hc, hexec.trans hu, hu, hstay, hpc⟩
      · refine .inr ⟨e, ?_⟩
        rw [hexec, hu, hop, raised, advance_fetchedFrom, encodeUndoesDecode _ _ hdec]
        rfl
  · have hop : fetchedOpcode s = none := if_neg hpc
    exact .inr ⟨_, by rw [hop]; exact fetch_outOfBounds (by omega)⟩

@[simp] theorem wordAtPc_clearPorts (s : State) : wordAtPc s.clearPorts = wordAtPc s := by simp [wordAtPc]

/-- The state in which a cycle that faults ends. -/
def State.afterFault (s : State) (op : Option Word) (e : Raise) : State :=
  (takeFault s.pc op e s.clearPorts).nextInput

/-- The frame of a faulting cycle: the PC that `takeFault` writes is the one the cycle began with. -/
theorem keeps_afterFault (s : State) (op : Option Word) (e : Raise) :
    KeepsAllBut [.status, .inputs, .cycles, .out] s (s.afterFault op e) := by
  intro p hp; cases p <;> simp_all [Part.Same, State.afterFault]

theorem closeFetching_takeFault (s : State) (op : Option Word) (e : Raise) :
    closeFetching (.next (takeFault s.pc op e s.clearPorts)) = .next (s.afterFault op e) := by
  rw [closeFetching, finish_takeFault, State.afterFault]

/-- The state in which a cycle ends whose instruction has completed in `u`. -/
def State.closed (u : State) : State := (timerStep (pushDisplay u)).nextInput

theorem closeFetching_running {u : State} (h : u.status = .running) : closeFetching (.next u) = .next u.closed := by
  rw [closeFetching, finish_running h, State.closed]

/-- How a fetching cycle ends: closed after an instruction that completes, or in a fault of its own fetch. -/
theorem step_fetches_cases {s : State} (h : Fetches s) :
    (∃ ins u, Completes s.atExecute ins ∧ exec ins s.atExecute = .next u ∧ StaysInFootprint ins s.atExecute u ∧
      u.status = .running ∧ s.pc.toNat + 1 < 4096 ∧ step s = .next u.closed) ∨
    (∃ e, step s = .next (s.afterFault (fetchedOpcode s) e)) := by
  rcases fetchAndExecute_cases s.clearPorts with ⟨ins, u, hc, hfetch, hexec, hstay, hpc⟩ | ⟨e, hfetch⟩
  · have hrun : u.status = .running := (hstay.keepsRest .status (by decide)).trans h.1
    exact .inl ⟨ins, u, hc, hexec, hstay, hrun, hpc, by rw [step_fetches h, hfetch, closeFetching_running hrun]⟩
  · have hop : fetchedOpcode s.clearPorts = fetchedOpcode s := by simp [fetchedOpcode]
    exact .inr ⟨e, by rw [step_fetches h, hfetch, hop]; exact closeFetching_takeFault s _ e⟩

/-- The state in which a cycle that is asked to stop ends. -/
def State.afterStop (s : State) : State := { s.clearPorts with status := .stopped }.nextInput

theorem step_stop {s : State} (hrun : s.status = .running) (hstop : s.input.stop = true) :
    step s = .next s.afterStop :=
  (step_running hrun).trans (cycle_stop hstop)

theorem keeps_afterStop (s : State) : KeepsAllBut [.status, .inputs, .cycles, .out] s s.afterStop := by
  intro p hp; cases p <;> simp_all [Part.Same, State.afterStop, State.byteAt, State.reg]

/-- What a Running core's step does: it stops, polls the key, or fetches (R302). -/
theorem step_of_running {s : State} (hrun : s.status = .running) :
    step s = .next s.afterStop ∨ (∃ r, s.mode = .awaitingKey r ∧ step s = .next (s.afterKeyWait r)) ∨ Fetches s := by
  cases hstop : s.input.stop with
  | true => exact .inl (step_stop hrun hstop)
  | false =>
    cases hmode : s.mode with
    | awaitingKey r => exact .inr (.inl ⟨r, rfl, step_keyWait hrun hstop hmode⟩)
    | fetching => exact .inr (.inr ⟨hrun, hstop, hmode⟩)

/-- Settles O16: each of the cycle's branches answers a next state. -/
theorem runningCoreAlwaysAnswersANextState : Obligations.RunningCoreAlwaysAnswersANextState := by
  intro s hrun
  rcases step_of_running hrun with h | ⟨r, -, h⟩ | hf
  · exact ⟨_, h⟩
  · exact ⟨_, h⟩
  · rcases step_fetches_cases hf with ⟨-, u, -, -, -, -, -, h⟩ | ⟨e, h⟩
    · exact ⟨_, h⟩
    · exact ⟨_, h⟩

/-- Settles O9: the fetch reads the word at PC, and `exec` runs with the ports clear and PC advanced. -/
theorem stepRunsTheDecodedInstruction : Obligations.StepRunsTheDecodedInstruction := by
  intro s ins hf hpc hdec
  have hfetch : fetchWord s.clearPorts = .ok (wordAtPc s) := (fetchWord_clearPorts s).trans (fetchWord_wordAtPc hpc)
  rw [step_fetches hf, fetch_executes hfetch hdec, atExecute_eq]

/-- The push and the timer step keep every part of `u` that they are not about. -/
theorem keeps_closed (u : State) : KeepsAllBut [.dt, .st, .acc, .dirty, .inputs, .cycles, .out] u u.closed :=
  ((keeps_pushDisplay u).mono (by decide)).trans
    (((keeps_timerStep _).mono (by decide)).trans ((keeps_nextInput _).mono (by decide)))

/-- The push reads no timer, and leaves the beep to the timer step. -/
theorem timerStepped_closed {u : State} (hbeep : u.out.beep = false) : TimerStepped u.input.tickMs u u.closed := by
  have hpush : (pushDisplay u).out.beep = false := by
    rw [pushDisplay_out]; split <;> exact hbeep
  have hstep := timerStepped_timerStep hpush
  simp only [TimerStepped, pushDisplay_input, pushDisplay_acc, pushDisplay_dt, pushDisplay_st] at hstep
  exact hstep

theorem closed_refresh {u : State} (h : u.out.refresh = none) :
    u.closed.out.refresh = if u.dirty then some u.fb else none := by
  refine (timerStep_refresh _).trans ?_
  rw [pushDisplay_out]
  split
  · rfl
  · exact h

theorem closed_fault (u : State) : u.closed.out.fault = u.out.fault := by
  refine (timerStep_fault _).trans ?_
  rw [pushDisplay_out]; split <;> rfl

/-- Settles O10: the instruction ran on cleared ports, so what goes out is the push and the beep of this cycle. -/
theorem completedInstructionEndsItsCycle : Obligations.CompletedInstructionEndsItsCycle := by
  intro s u ins hf hpc hdec hexec hrun
  have hstay : StaysInFootprint ins s.atExecute u :=
    eachInstructionStaysInItsFootprint ins s.atExecute u hf.1 hexec hrun
  have hkeep := hstay.keepsRest
  have hout : u.out = {} := hkeep .out (by decide)
  have hinputs : u.inputs = s.inputs := hkeep .inputs (by decide)
  have hinput : u.input = s.input := input_congr hinputs (hkeep .cycles (by decide))
  have hstep : step s = .next u.closed := by
    rw [stepRunsTheDecodedInstruction s ins hf hpc hdec, hexec, closeFetching_running hrun]
  have htimer : TimerStepped u.input.tickMs u u.closed := timerStepped_closed (by rw [hout])
  refine ⟨u.closed, hstep, ?_, closed_refresh (by rw [hout]), ?_, hinput ▸ htimer, ?_, keeps_closed u⟩
  · simp [State.closed]
  · rw [closed_fault, hout]
  · simp [State.closed, hinputs]

/-- Settles O13: the timer step alone, with its frame. -/
theorem timerStepCountsDownAndBeeps : Obligations.TimerStepCountsDownAndBeeps := by
  intro s hbeep
  exact ⟨timerStepped_timerStep hbeep, timerStep_refresh s, timerStep_fault s, keeps_timerStep s⟩

/-- Settles O14: the stop check comes first, and a Stopped core has no cycle. -/
theorem stopRequestEndsTheCycleAtOnce : Obligations.StopRequestEndsTheCycleAtOnce := by
  intro s hrun hstop
  exact ⟨s.afterStop, step_stop hrun hstop, rfl, rfl, rfl, rfl, keeps_afterStop s, rfl⟩

/-- Settles O15: the step asks the status first. -/
theorem haltedCoreTakesNoCycle : Obligations.HaltedCoreTakesNoCycle := by
  intro s hhalted
  refine ⟨?_, rfl⟩
  cases hstatus : s.status with
  | running => exact absurd hstatus hhalted
  | stopped => exact ⟨.coreStopped, by rw [step, hstatus]⟩
  | faulted r => exact ⟨.coreFaulted r, by rw [step, hstatus]⟩

/-- Settles O17: the fetch fails before anything else happens in the cycle. -/
theorem fetchPastMemoryFaults : Obligations.FetchPastMemoryFaults := by
  intro s hf hpc
  refine ⟨s.afterFault none ⟨.fetchOutOfBounds, none⟩, ?_, rfl, rfl, keeps_afterFault s _ _⟩
  rw [step_fetches hf, fetch_outOfBounds (s := s.clearPorts) (by simpa using hpc)]
  exact closeFetching_takeFault s _ _

/-- Settles O18: the fetched word is in the record, since decoding comes after the fetch. -/
theorem unsupportedWordFaults : Obligations.UnsupportedWordFaults := by
  intro s hf hpc hdec
  refine ⟨s.afterFault (some (wordAtPc s)) ⟨.unsupportedOpcode, none⟩, ?_, rfl, rfl, keeps_afterFault s _ _⟩
  have hfetch : fetchWord s.clearPorts = .ok (wordAtPc s) := (fetchWord_clearPorts s).trans (fetchWord_wordAtPc hpc)
  rw [step_fetches hf, fetch_unsupported hfetch hdec]
  exact closeFetching_takeFault s _ _

/-- Settles O19: only a fetching cycle can end Faulted, and then in a fault of its own fetch. -/
theorem faultsArePrecise : Obligations.FaultsArePrecise := by
  intro s t r hstep hfault
  have hrun := running_of_step hstep
  rcases step_of_running hrun with h | ⟨q, -, h⟩ | hf
  · cases h.symm.trans hstep
    cases hfault
  · cases h.symm.trans hstep
    simp [State.afterKeyWait, hrun] at hfault
  · rcases step_fetches_cases hf with ⟨-, u, -, -, -, hurun, -, h⟩ | ⟨e, h⟩
    · cases h.symm.trans hstep
      simp [State.closed, hurun] at hfault
    · cases h.symm.trans hstep
      cases hfault
      exact ⟨keeps_afterFault s _ e, rfl, rfl, rfl⟩

/-- Settles O27: each of the cycle's branches ends by using up one set of port values. -/
theorem stepKeepsParametersAndUsesOneInput : Obligations.StepKeepsParametersAndUsesOneInput := by
  intro s t hstep
  rcases step_of_running (running_of_step hstep) with h | ⟨r, -, h⟩ | hf
  · cases h.symm.trans hstep
    exact ⟨rfl, rfl, rfl⟩
  · cases h.symm.trans hstep
    simp [State.afterKeyWait]
  · rcases step_fetches_cases hf with ⟨ins, u, -, -, hstay, -, -, h⟩ | ⟨e, h⟩
    · cases h.symm.trans hstep
      have hrest := hstay.keepsRest
      have hparams : u.params = s.params := hrest .params (by decide)
      have hinputs : u.inputs = s.inputs := hrest .inputs (by decide)
      have hcycles : u.cycles = s.cycles := hrest .cycles (by decide)
      simp [State.closed, hparams, hinputs, hcycles]
    · cases h.symm.trans hstep
      exact ⟨rfl, rfl, rfl⟩

/-- The frame of one waiting cycle in which no key comes. -/
theorem keeps_afterKeyWait_of_none {s : State} {r : Reg} (h : s.input.key = none) :
    KeepsAllBut [.dt, .st, .acc, .inputs, .cycles, .out] s (s.afterKeyWait r) := by
  rw [State.afterKeyWait, pollKey_of_none r (by simpa using h)]
  exact ((keeps_clearPorts s).mono (by decide)).trans
    (((keeps_timerStep _).mono (by decide)).trans ((keeps_nextInput _).mono (by decide)))

/-- A run goes on from where its first step leads. -/
theorem run_succ {s t : State} (h : step s = .next t) (n : Nat) :
    Sys2Proof.core.run (n + 1) s = Sys2Proof.core.run n t := by
  have hstep : Sys2Proof.core.step s = .next t := h
  simp only [Host.Core.run, hstep]

/-- Settles O12, by induction on the number of cycles: each one leaves a core that awaits the same key, with the rest of
the queue. -/
theorem keyWaitHoldsWhileNoKeyComes : Obligations.KeyWaitHoldsWhileNoKeyComes := by
  intro n
  induction n with
  | zero => intro s _ _ _ _ _; exact ⟨s, rfl, keepsAllBut_refl _ s⟩
  | succ n ih =>
    intro s r hrun hmode hlen hquiet
    obtain ⟨inp, rest, hinputs⟩ : ∃ inp rest, s.inputs = inp :: rest :=
      List.exists_cons_of_length_pos (by omega)
    rw [hinputs, List.length_cons] at hlen
    rw [hinputs, List.take_succ_cons, List.forall_mem_cons] at hquiet
    obtain ⟨⟨hstop, hkey⟩, hquiet⟩ := hquiet
    have hinput : s.input = inp := by rw [State.input, hinputs]
    rw [← hinput] at hstop hkey
    have hrest : (s.afterKeyWait r).inputs = rest := by simp [State.afterKeyWait, hinputs]
    have hkeep : KeepsAllBut [.dt, .st, .acc, .inputs, .cycles, .out] s (s.afterKeyWait r) :=
      keeps_afterKeyWait_of_none hkey
    obtain ⟨t, hrunsOn, hkeep'⟩ := ih (s.afterKeyWait r) r ((hkeep .status (by decide)).trans hrun)
      ((hkeep .mode (by decide)).trans hmode) (by rw [hrest]; omega) (by rwa [hrest])
    exact ⟨t, (run_succ (step_keyWait hrun hstop hmode) n).trans hrunsOn, hkeep.trans hkeep'⟩

end Sys2Proof.Machine
end

section
/-! PROOFS. Reset and load (`70_reset_and_hazards.md`): the items of the reset state, what a load leaves, and the first
cycle of an empty image. -/

namespace Sys2Proof.Machine

/-- With nothing listed in memory every cell reads its reset contents (R360). -/
theorem resetCore_byteAt (s : State) (a : Nat) : (resetCore s).byteAt a = unlisted s.params.glyphRom a := rfl

/-- Every item of R20's tuple is at its reset value, whatever the state before (R360). -/
theorem isResetState_resetCore (s : State) : IsResetState s.params (resetCore s) where
  glyphs a h := (resetCore_byteAt s a).trans (dif_pos h)
  zeroed a h _ := (resetCore_byteAt s a).trans (dif_neg (Nat.not_lt.mpr h))
  regs _ := Vector.getElem_replicate _
  stack _ := Vector.getElem_replicate _
  sp := rfl
  i := rfl
  pc := rfl
  dt := rfl
  st := rfl
  fb _ _ := BitVec.getLsbD_zero
  dirty := rfl
  mode := rfl
  acc := rfl
  status := rfl
  params := rfl

/-- A reset of the reset state changes nothing. -/
theorem resetCore_reset : resetCore State.reset = State.reset := rfl

/-- Settles O1: the machine's reset state is what `reset` leaves with the default parameters, whose font is R360's. -/
theorem resetLeavesTheSpecifiedState : Obligations.ResetLeavesTheSpecifiedState := by
  refine ⟨isResetState_resetCore, ?_, rfl⟩
  have hreset := isResetState_resetCore State.reset
  rwa [resetCore_reset] at hreset

/-- The fault that a too long image raises, with its length (R314). -/
def tooLargeRecord (n : Nat) : FaultRecord :=
  { cause := .programTooLarge, pc := none, opcode := none, info := some n }

theorem load_of_tooLarge {image : List Byte} (h : image.length > maxProgram) (s : State) :
    load image s = enterFault (tooLargeRecord image.length) s :=
  if_pos h

theorem keeps_enterFault (s : State) (r : FaultRecord) : KeepsAllBut [.status, .out] s (enterFault r s) := by
  intro p hp; cases p <;> simp_all [Part.Same]

/-- Settles O2: an image that fits is one store from 0x200 up; a longer one is refused before any byte is written. -/
theorem loadCopiesTheImageOrFaults : Obligations.LoadCopiesTheImageOrFaults := by
  intro image s
  constructor
  · intro hfits
    rw [load_of_fits hfits]
    refine ⟨fun k hk => ?_, fun c hc => ?_, rfl, ?_⟩
    · rw [clearPorts_byteAt]
      exact setBytes_get s _ k image _ (List.getElem?_eq_getElem hk)
    · rw [clearPorts_byteAt]
      exact keepsBytes_setBytes s _ image c hc
    · exact ((keeps_setBytes s _ image).mono (by decide)).trans ((keeps_clearPorts _).mono (by decide))
  · intro hlong
    rw [load_of_tooLarge hlong]
    exact ⟨rfl, rfl, keeps_enterFault s _⟩

/-- The word that the first fetch after an empty load reads (R362). -/
theorem wordAtPc_boot_nil (s : State) : wordAtPc (boot [] s) = 0x0000#16 := by
  have hzero : ∀ a, 80 ≤ a → (boot [] s).byteAt a = 0 := fun a ha =>
    (resetCore_byteAt s a).trans (dif_neg (Nat.not_lt.mpr ha))
  have hpc : (boot [] s).pc.toNat = 0x200 := rfl
  rw [wordAtPc, hpc, hzero _ (by decide), hzero _ (by decide)]
  rfl

/-- Settles O4: 0x0000 is in R97's table, so the first cycle is that of an unsupported word. -/
theorem emptyImageFaultsInTheFirstCycle : Obligations.EmptyImageFaultsInTheFirstCycle := by
  intro s hstop
  have hrejects : decodeWord (wordAtPc (boot [] s)) = .error (.unsupported (wordAtPc (boot [] s))) := by
    rw [wordAtPc_boot_nil, rejectedWordsAreTheTabledOnes]
    decide
  have hpc : (boot [] s).pc = 0x200#16 := rfl
  have hin : (boot [] s).pc.toNat + 1 < 4096 := by rw [hpc]; decide
  obtain ⟨t, hstep, hstatus, hout, hkeep⟩ := unsupportedWordFaults (boot [] s) ⟨rfl, hstop, rfl⟩ hin hrejects
  rw [wordAtPc_boot_nil, hpc] at hstatus
  exact ⟨t, hstep, hstatus, by rw [hout], hkeep .dirty (by decide), hkeep .pc (by decide)⟩

end Sys2Proof.Machine
end

section
/-! PROOFS. The invariant of the core (`10_state.md`): it holds after reset and load, and every step keeps it. An
instruction that completes is followed through memory, PC and the live stack cells; a fault changes none of them. -/

namespace Sys2Proof.Machine

/-- The invariant after a reset from any state. -/
theorem inv_resetCore (s : State) : (resetCore s).Inv where
  mem := wf_nil _
  pc := show (0x200#16).toNat ≤ 0x10FE by decide
  stack k _ hlive := absurd hlive (Nat.not_lt_zero k)
  acc := Nat.zero_le _
  wait t hmode := by cases hmode

/-- Settles O22: the reset state is the one a reset leaves. -/
theorem resetMeetsTheInvariant : Obligations.ResetMeetsTheInvariant := by
  have hreset := inv_resetCore State.reset
  rwa [resetCore_reset] at hreset

/-- Settles O23: a load either stores inside the array or changes nothing but the status. -/
theorem bootMeetsTheInvariant : Obligations.BootMeetsTheInvariant := by
  intro image s
  obtain ⟨hmem, hpc, hstack, hacc, hwait⟩ := inv_resetCore s
  by_cases hfits : image.length ≤ maxProgram
  · have hbound : programBase + image.length ≤ memSize := by
      simp only [maxProgram, memSize, programBase] at hfits ⊢; omega
    rw [boot, load_of_fits hfits]
    exact ⟨wf_setBytes hbound hmem, hpc, hstack, hacc, hwait⟩
  · rw [boot, load_of_tooLarge (Nat.lt_of_not_le hfits)]
    exact ⟨hmem, hpc, hstack, hacc, hwait⟩

/-- Memory is canonical and PC at most 0x10FE, the two clauses that instructions other than RET and CALL bear on. -/
def State.MemAndPcBounded (s : State) : Prop := Memory.wf s.params.glyphRom s.mem ∧ s.pc.toNat ≤ 0x10FE

/-- The live return addresses are at most 0x1000 (R27, R133). -/
def State.LiveStackBounded (s : State) : Prop :=
  ∀ (k : Nat) (h : k < 16), k < s.sp.val → s.stack[k].toNat ≤ 0x1000

/-- Advancing PC raises a bound on it by 2, wrapping or not. -/
theorem add_two_toNat_le {w : Word} {n : Nat} (h : w.toNat ≤ n) : (w + 2).toNat ≤ n + 2 := by
  rw [BitVec.toNat_add]
  exact Nat.le_trans (Nat.mod_le _ _) (Nat.add_le_add_right h 2)

/-- A taken skip adds 2 to a PC of at most 0x1000. -/
theorem skipIf_bounded {s : State} (b : Bool) (hwf : Memory.wf s.params.glyphRom s.mem) (hpc : s.pc.toNat ≤ 0x1000) :
    (skipIf b s).MemAndPcBounded := by
  refine ⟨by rwa [skipIf_params, skipIf_mem], ?_⟩
  rw [skipIf_pc]
  split
  · exact Nat.le_trans (add_two_toNat_le hpc) (by decide)
  · omega

/-- An instruction that completes, with PC already advanced to at most 0x1000, writes inside the array and jumps to at most
0xFFF + 0xFF (R27, R132). -/
theorem exec_bounded {ins : Instr} {s t : State} (hc : Completes s ins) (hwf : Memory.wf s.params.glyphRom s.mem)
    (hpc : s.pc.toNat ≤ 0x1000) (hstack : s.LiveStackBounded) (h : exec ins s = .next t) : t.MemAndPcBounded := by
  have hpc' : s.pc.toNat ≤ 0x10FE := by omega
  cases ins with
  | ret =>
    have hlive : 0 < s.sp.val := Nat.pos_of_ne_zero hc
    cases (execRet_pops hlive).symm.trans h
    exact ⟨hwf, Nat.le_trans (hstack (s.sp.val - 1) (by omega) (by omega)) (by decide)⟩
  | call nnn =>
    cases (execCall_pushes nnn (sp_lt_of_completes_call hc)).symm.trans h
    have := nnn.isLt
    exact ⟨hwf, by rw [addrWord_toNat]; omega⟩
  | jp nnn =>
    cases h
    have := nnn.isLt
    exact ⟨hwf, by rw [setPc_pc, addrWord_toNat]; omega⟩
  | jpV0 nnn =>
    cases h
    have := nnn.isLt
    have := (s.reg 0).isLt
    exact ⟨hwf, by rw [setPc_pc, jumpV0Target_toNat]; omega⟩
  | seImm x a | sneImm x a | seReg x a | sneReg x a => cases h; exact skipIf_bounded _ hwf hpc
  | skp x | sknp x => cases h; exact skipIf_bounded _ hwf hpc
  | ldReg x y | orReg x y | andReg x y | xorReg x y =>
    cases (commit_guard_of_avoids _ _ _ hc).symm.trans h; exact ⟨hwf, hpc'⟩
  | addI x => cases (exec_addI_of_fits x hc).symm.trans h; exact ⟨hwf, hpc'⟩
  | ldB x =>
    cases (exec_ldB_of_inBounds x hc).symm.trans h
    exact ⟨wf_setBytes (by exact hc) hwf, hpc'⟩
  | storeRegs x =>
    cases (exec_storeRegs_of_inBounds x hc).symm.trans h
    exact ⟨wf_setBytes (by rw [regsUpTo_length]; exact hc) hwf, hpc'⟩
  | loadRegs x => cases (exec_loadRegs_of_inBounds x hc).symm.trans h; exact ⟨hwf, hpc'⟩
  | drw x y n => cases (exec_drw_readable x y hc).symm.trans h; exact ⟨hwf, hpc'⟩
  | cls | ldImm _ _ | addImm _ _ | addReg _ _ | subReg _ _ | shr _ _ | subnReg _ _ | shl _ _ | ldI _ | rnd _ _
  | ldVxDt _ | ldVxK _ | ldDtVx _ | ldStVx _ | ldF _ => cases h; exact ⟨hwf, hpc'⟩

/-- The one return address that an instruction can push is the advanced PC (R133). -/
theorem exec_liveStackBounded {ins : Instr} {s t : State} (hc : Completes s ins) (hpc : s.pc.toNat ≤ 0x1000)
    (hstack : s.LiveStackBounded) (h : exec ins s = .next t) : t.LiveStackBounded := by
  rcases ret_or_call_or_other ins with rfl | ⟨nnn, rfl⟩ | ⟨hret, hcall⟩
  · cases (execRet_pops (Nat.pos_of_ne_zero hc)).symm.trans h
    exact fun k hk hlive => hstack k hk (Nat.lt_of_lt_of_le hlive (Nat.sub_le _ _))
  · cases (execCall_pushes nnn (sp_lt_of_completes_call hc)).symm.trans h
    intro k hk hlive
    by_cases htop : k = s.sp.val
    · subst htop
      simpa using hpc
    · have hbelow : k < s.sp.val := Nat.lt_of_le_of_ne (Nat.le_of_lt_succ hlive) htop
      simpa [Vector.getElem_set_ne, Ne.symm htop] using hstack k hk hbelow
  · obtain ⟨hsp, hcells⟩ := exec_keeps_stack hret hcall h
    intro k hk hlive
    rw [hsp] at hlive
    simpa only [hcells] using hstack k hk hlive

/-- Past the threshold the accumulator starts again at 0, so at most 16 ms are ever left in it (R306, D15). -/
theorem timerStep_acc_le (s : State) : (timerStep s).acc ≤ 16 := by
  rw [timerStep_acc]
  split
  case isTrue => exact Nat.zero_le _
  case isFalse hfires =>
    simp only [timerFires, decide_eq_true_eq] at hfires
    omega

/-- A cycle closed after a completed instruction: the display is clean, and the accumulator is the timer step's. -/
theorem inv_closed {u : State} (hbound : u.MemAndPcBounded) (hstack : u.LiveStackBounded) : u.closed.Inv where
  mem := by simpa [State.closed] using hbound.1
  pc := by simpa [State.closed] using hbound.2
  stack k hk hlive := by
    simp only [State.closed, nextInput_sp, timerStep_sp, pushDisplay_sp] at hlive
    simpa [State.closed] using hstack k hk hlive
  acc := timerStep_acc_le _
  wait t _ := by simp [State.closed]

/-- A key wait begins and goes on with a clean display (R305). -/
theorem inv_afterKeyWait {s : State} {r : Reg} (hinv : s.Inv) (hmode : s.mode = .awaitingKey r) :
    (s.afterKeyWait r).Inv where
  mem := by simpa [State.afterKeyWait] using hinv.mem
  pc := by simpa [State.afterKeyWait] using hinv.pc
  stack k hk hlive := by
    simp only [State.afterKeyWait, nextInput_sp, timerStep_sp, pollKey_sp, clearPorts_sp] at hlive
    simpa [State.afterKeyWait] using hinv.stack k hk hlive
  acc := timerStep_acc_le _
  wait t _ := by simpa [State.afterKeyWait] using hinv.wait r hmode

/-- Settles O21: an instruction runs only if its word lies in the array, so with PC advanced to at most 0x1000. -/
theorem everyStepKeepsTheInvariant : Obligations.EveryStepKeepsTheInvariant := by
  intro s t hinv hstep
  obtain ⟨hmem, hpc, hstack, hacc, hwait⟩ := hinv
  rcases step_of_running (running_of_step hstep) with h | ⟨r, hmode, h⟩ | hf
  · cases h.symm.trans hstep
    exact ⟨hmem, hpc, hstack, hacc, hwait⟩
  · cases h.symm.trans hstep
    exact inv_afterKeyWait ⟨hmem, hpc, hstack, hacc, hwait⟩ hmode
  · rcases step_fetches_cases hf with ⟨ins, u, hc, hexec, -, -, hin, h⟩ | ⟨e, h⟩
    · cases h.symm.trans hstep
      have hadvanced : s.atExecute.pc.toNat ≤ 0x1000 := add_two_toNat_le (n := 0xFFE) (by omega)
      exact inv_closed (exec_bounded hc hmem hadvanced hstack hexec)
        (exec_liveStackBounded hc hadvanced hstack hexec)
    · cases h.symm.trans hstep
      exact ⟨hmem, hpc, hstack, hacc, hwait⟩

end Sys2Proof.Machine
end

section
/-! PROOFS. The stale stack cells (`10_state.md` R32, R44): nothing but a push and a pop looks at the stack, a pop reads a
live cell and a push overwrites a stale one, so two states that differ in stale cells step alike. -/

namespace Sys2Proof.Machine

def State.withStack (σ : Vector Word 16) (s : State) : State := { s with stack := σ }

/-- The stack agrees with that of `s` in the live cells. -/
def State.LiveCellsIn (s : State) (σ : Vector Word 16) : Prop :=
  ∀ (k : Nat) (h : k < 16), k < s.sp.val → σ[k] = s.stack[k]

theorem sameButStaleStack_withStack {s : State} {σ : Vector Word 16} (h : s.LiveCellsIn σ) :
    SameButStaleStack s (s.withStack σ) :=
  ⟨rfl, h⟩

theorem SameButStaleStack.exists_stack {s t : State} (h : SameButStaleStack s t) :
    ∃ σ, t = s.withStack σ ∧ s.LiveCellsIn σ :=
  ⟨t.stack, h⟩

/-- An operation that carries the stack along unread, and keeps SP, keeps the relation. -/
theorem SameButStaleStack.map {f : State → State} {s t : State} (h : SameButStaleStack s t)
    (hcarry : ∀ σ, f (s.withStack σ) = (f s).withStack σ) (hsp : (f s).sp = s.sp) (hstack : (f s).stack = s.stack) :
    SameButStaleStack (f s) (f t) := by
  obtain ⟨σ, rfl, hlive⟩ := h.exists_stack
  rw [hcarry]
  refine sameButStaleStack_withStack fun k hk hkl => ?_
  rw [hsp] at hkl
  simpa only [hstack] using hlive k hk hkl

theorem pollKey_withStack (r : Reg) (s : State) (σ : Vector Word 16) :
    pollKey r (s.withStack σ) = (pollKey r s).withStack σ := by
  cases hkey : s.input.key with
  | none => rw [pollKey_of_none r hkey]; exact pollKey_of_none (s := s.withStack σ) r hkey
  | some k => rw [pollKey_of_some r hkey]; exact pollKey_of_some (s := s.withStack σ) r hkey

theorem timerStep_withStack (s : State) (σ : Vector Word 16) :
    timerStep (s.withStack σ) = (timerStep s).withStack σ := by
  unfold timerStep
  refine Eq.trans ?_ (apply_ite (State.withStack σ) (timerFires (s.acc + s.input.tickMs) = true) _ _).symm
  rfl

theorem pushDisplay_withStack (s : State) (σ : Vector Word 16) :
    pushDisplay (s.withStack σ) = (pushDisplay s).withStack σ := by
  unfold pushDisplay
  refine Eq.trans ?_ (apply_ite (State.withStack σ) (s.dirty = true) _ _).symm
  rfl

theorem closed_withStack (s : State) (σ : Vector Word 16) : (s.withStack σ).closed = s.closed.withStack σ := by
  rw [State.closed, pushDisplay_withStack, timerStep_withStack]; rfl

theorem afterKeyWait_withStack (r : Reg) (s : State) (σ : Vector Word 16) :
    (s.withStack σ).afterKeyWait r = (s.afterKeyWait r).withStack σ := by
  have hpoll : pollKey r (s.withStack σ).clearPorts = (pollKey r s.clearPorts).withStack σ :=
    pollKey_withStack r s.clearPorts σ
  rw [State.afterKeyWait, hpoll, timerStep_withStack]; rfl

/-- Two next states that differ in stale cells alone. -/
def AnswerAlike (a b : Result) : Prop := ∃ u w, a = .next u ∧ b = .next w ∧ SameButStaleStack u w

theorem AnswerAlike.agree {a b : Result} (h : AnswerAlike a b) : Agree SameButStaleStack a b := by
  obtain ⟨u, w, rfl, rfl, hsame⟩ := h
  exact hsame

/-- The record of an instruction's fault does not name the stack. -/
theorem SameButStaleStack.raised {s t : State} (h : SameButStaleStack s t) (ins : Instr) (e : Raise) :
    SameButStaleStack (raised ins e s) (raised ins e t) :=
  h.map (f := Machine.raised ins e) (fun _ => rfl) rfl rfl

/-- A pop reads the topmost live cell (R130). -/
theorem exec_ret_stale {s t : State} (h : SameButStaleStack s t) : AnswerAlike (exec .ret s) (exec .ret t) := by
  obtain ⟨σ, rfl, hlive⟩ := h.exists_stack
  by_cases hempty : s.sp.val = 0
  · exact ⟨_, _, execRet_empty hempty, execRet_empty (s := s.withStack σ) hempty, h.raised _ _⟩
  · have hpos : 0 < s.sp.val := Nat.pos_of_ne_zero hempty
    refine ⟨_, _, execRet_pops hpos, execRet_pops (s := s.withStack σ) hpos, ?popped, fun k hk hkl => ?live⟩
    case popped =>
      have htop : σ[s.sp.val - 1] = s.stack[s.sp.val - 1] := hlive (s.sp.val - 1) (by omega) (by omega)
      simp only [State.withStack, htop]
    case live => exact hlive k hk (Nat.lt_of_lt_of_le hkl (Nat.sub_le _ _))

/-- A push writes the lowest stale cell, which is live afterwards (R133). -/
theorem exec_call_stale {s t : State} (h : SameButStaleStack s t) (nnn : Addr) :
    AnswerAlike (exec (.call nnn) s) (exec (.call nnn) t) := by
  obtain ⟨σ, rfl, hlive⟩ := h.exists_stack
  by_cases hroom : s.sp.val < 16
  · refine ⟨_, _, execCall_pushes nnn hroom, execCall_pushes (s := s.withStack σ) nnn hroom, rfl, fun k hk hkl => ?_⟩
    by_cases htop : s.sp.val = k
    · simp only [State.withStack, Vector.getElem_set, if_pos htop]
    · have hbelow : k < s.sp.val := Nat.lt_of_le_of_ne (Nat.le_of_lt_succ hkl) (Ne.symm htop)
      simp only [State.withStack, Vector.getElem_set, if_neg htop]
      exact hlive k hk hbelow
  · have hfull : s.sp.val = 16 := by omega
    exact ⟨_, _, execCall_full nnn hfull, execCall_full (s := s.withStack σ) nnn hfull, h.raised _ _⟩

/-- Every other instruction carries the stack along unread (R44). -/
theorem exec_other_stale {ins : Instr} {s t : State} (hret : ins ≠ .ret) (hcall : ∀ nnn, ins ≠ .call nnn)
    (h : SameButStaleStack s t) : AnswerAlike (exec ins s) (exec ins t) := by
  obtain ⟨σ, rfl, hlive⟩ := h.exists_stack
  obtain ⟨u, hu, -, -, hinputs, -⟩ := exec_answers ins s
  obtain ⟨hsp, hstack⟩ := exec_keeps_stack hret hcall hu
  have hu' : exec ins (s.withStack σ) = .next (u.withQueueAndStack s.inputs σ) :=
    exec_withQueueAndStack s.inputs σ hret hcall (fun _ => rfl) (fun _ => rfl) hu
  rw [← hinputs] at hu'
  refine ⟨u, u.withStack σ, hu, hu', sameButStaleStack_withStack fun k hk hkl => ?_⟩
  rw [hsp] at hkl
  simpa only [hstack] using hlive k hk hkl

theorem exec_stale (ins : Instr) {s t : State} (h : SameButStaleStack s t) :
    AnswerAlike (exec ins s) (exec ins t) := by
  rcases ret_or_call_or_other ins with rfl | ⟨nnn, rfl⟩ | ⟨hret, hcall⟩
  · exact exec_ret_stale h
  · exact exec_call_stale h nnn
  · exact exec_other_stale hret hcall h

/-- The fetch reads memory, and then the instruction runs from states that still differ in stale cells alone. -/
theorem fetchAndExecute_stale {s t : State} (h : SameButStaleStack s t) :
    AnswerAlike (fetchAndExecute s) (fetchAndExecute t) := by
  have hfetch : fetchWord t = fetchWord s := by rw [h.1]; rfl
  have hpc : t.pc = s.pc := by rw [h.1]
  have hfault : ∀ op e, SameButStaleStack (takeFault s.pc op e s) (takeFault t.pc op e t) := fun op e =>
    hpc ▸ h.map (f := takeFault s.pc op e) (fun _ => rfl) rfl rfl
  rcases fetch_cases s with ⟨hout, hs⟩ | ⟨op, e, hop, hdec, hs⟩ | ⟨op, ins, hop, hdec, hs⟩
  · exact ⟨_, _, hs, fetch_outOfBounds (by rwa [hpc]), hfault _ _⟩
  · exact ⟨_, _, hs, fetch_unsupported (hfetch.trans hop) hdec, hfault _ _⟩
  · rw [hs, fetch_executes (hfetch.trans hop) hdec]
    exact exec_stale ins (h.map (f := State.advance) (fun _ => rfl) rfl rfl)

/-- The rest of the cycle does not look at the stack. -/
theorem closeFetching_stale {a b : Result} (h : AnswerAlike a b) :
    AnswerAlike (closeFetching a) (closeFetching b) := by
  obtain ⟨u, w, rfl, rfl, hsame⟩ := h
  have hstatus : w.status = u.status := by rw [hsame.1]
  by_cases hrun : u.status = .running
  · exact ⟨_, _, closeFetching_running hrun, closeFetching_running (hstatus.trans hrun),
      hsame.map (closed_withStack u) (by simp [State.closed]) (by simp [State.closed])⟩
  · have hhalt : w.status ≠ .running := by rwa [hstatus]
    refine ⟨_, _, rfl, rfl, ?_⟩
    rw [finish_faulted hrun, finish_faulted hhalt]
    exact hsame.map (f := State.nextInput) (fun _ => rfl) rfl rfl

/-- A Running core stops, polls the key or fetches, as the parts that the two states share say (R302). -/
theorem step_running_stale {s t : State} (h : SameButStaleStack s t) (hrun : s.status = .running) :
    AnswerAlike (step s) (step t) := by
  have hrun' : t.status = .running := by rw [h.1]; exact hrun
  have hinput : t.input = s.input := input_congr (by rw [h.1]) (by rw [h.1])
  have hmode : t.mode = s.mode := by rw [h.1]
  cases hstop : s.input.stop with
  | true =>
    exact ⟨_, _, step_stop hrun hstop, step_stop hrun' (by rw [hinput, hstop]),
      h.map (f := State.afterStop) (fun _ => rfl) rfl rfl⟩
  | false =>
    have hstop' : t.input.stop = false := by rw [hinput, hstop]
    cases hwait : s.mode with
    | awaitingKey r =>
      exact ⟨_, _, step_keyWait hrun hstop hwait, step_keyWait hrun' hstop' (hmode.trans hwait),
        h.map (f := fun v => v.afterKeyWait r) (afterKeyWait_withStack r s) (by simp [State.afterKeyWait])
          (by simp [State.afterKeyWait])⟩
    | fetching =>
      rw [step_fetches ⟨hrun, hstop, hwait⟩, step_fetches ⟨hrun', hstop', hmode.trans hwait⟩]
      exact closeFetching_stale (fetchAndExecute_stale (h.map (f := State.clearPorts) (fun _ => rfl) rfl rfl))

/-- Settles O24: a halted core's step is the fault of its status, and a Running core's answers alike. -/
theorem staleStackCellsAreInvisible : Obligations.StaleStackCellsAreInvisible := by
  intro s t h
  have hstatus : t.status = s.status := by rw [h.1]
  cases hs : s.status with
  | running => exact (step_running_stale h hs).agree
  | stopped => rw [step, step, hstatus, hs]; exact rfl
  | faulted r => rw [step, step, hstatus, hs]; exact rfl

end Sys2Proof.Machine
end
